-- ==== Sys2Proof/Word.lean ====
section
/-!
DEFINITION. The widths of the block (00_scope.md R6, 10_state.md R23): a byte, a 16-bit word, a 32-bit register.
-/

namespace Sys2Proof

/-- A byte, 8 bits (R6). -/
abbrev Byte := BitVec 8

/-- A data word, an argument word or a command code, 16 bits (R6). -/
abbrev Word := BitVec 16

/-- A scalar register or a descriptor, 32 bits (R23, R70). -/
abbrev Reg := BitVec 32

end Sys2Proof
end

