-- ==== Sys2Proof/Config.lean ====
section
/-!
DEFINITION. What an implementation fixes (the open parameters of 00_scope.md R7) and the free values (values the spec leaves
unspecified). The constants below have no body: nothing can be proved of their value but its range.
-/

namespace Sys2Proof

/-- The named parameters of R7. MAX_RAW and MAX_FRAME are derived from them. -/
structure Capacity where
  /-- `MAX_ARGS`: the largest argument-word count `k` a FRAME accepts. -/
  maxArgs : Nat
  /-- `MAX_GROUPS`: the largest group count `n` a DECODE accepts. -/
  maxGroups : Nat
  deriving DecidableEq, Repr

namespace Capacity

/-- `MAX_RAW = 3 * MAX_GROUPS` (R7). -/
def maxRaw (c : Capacity) : Nat := 3 * c.maxGroups

/-- `MAX_FRAME = 2 + 3 * MAX_ARGS` (R7). -/
def maxFrame (c : Capacity) : Nat := 2 + 3 * c.maxArgs

/-- The constraints of R7: `1 <= MAX_ARGS <= 255` and `20 <= MAX_GROUPS <= 255`. -/
abbrev Ok (c : Capacity) : Prop :=
  1 ≤ c.maxArgs ∧ c.maxArgs ≤ 255 ∧ 20 ≤ c.maxGroups ∧ c.maxGroups ≤ 255

end Capacity

namespace Config

/-- OPEN (R7, D5): how far MAX_ARGS lies above its least value 1. DESIGN CHOICE of the form, log 5; safe. -/
opaque argsAboveLeast : Fin 255

/-- OPEN (R7, D5): how far MAX_GROUPS lies above its least value 20. DESIGN CHOICE of the form, log 5; safe. -/
opaque groupsAboveLeast : Fin 236

/-- The parameters of the block as built: any values R7 allows (log 5). -/
def capacity : Capacity := ⟨argsAboveLeast.val + 1, groupsAboveLeast.val + 20⟩

theorem capacity_ok : capacity.Ok := by
  have h1 := argsAboveLeast.isLt
  have h2 := groupsAboveLeast.isLt
  simp only [capacity, Capacity.Ok]
  omega

/-- Free value: what the accumulator ACC holds after a completion (R31: no value survives an operation). Log 7; safe. -/
opaque freeAcc : Nat → Byte

/-- Free value: the engine's position after a completion (R31: not state between operations). Log 7; safe. -/
opaque freePos : Nat → Nat

end Config

end Sys2Proof
end

