-- ==== Sys2Proof/Syntax.lean ====
section
/-!
DEFINITION. The block's operations (30_encoding.md R79, opcode_table.json), one constructor per row of the table.
-/

namespace Sys2Proof

/-- The operations of the block, with the operands their descriptors carry (R72). -/
inductive Instr where
  /-- `CRC8 w`: checksum of the word `w` (R104). -/
  | crc8 (w : Word)
  /-- `FRAME cmd, k`: the frame of command code `cmd` with `k` argument words (R121). -/
  | frame (k : Byte) (cmd : Word)
  /-- `DECODE n, L`: check a response of `L` bytes for `n` word groups (R141). -/
  | decode (n : Byte) (len : Word)
  deriving DecidableEq, Repr

end Sys2Proof
end

