-- ==== Sys2Proof/Decode.lean ====
section
/-!
DEFINITION. The operation descriptor (30_encoding.md R70 to R72, R78, R79): its fields, the decoder, total on all 32-bit
descriptors and rejecting by cause, and the encoder. The two capacity causes of R78 depend on the block's parameters and are
raised by the operations' meanings (DESIGN CHOICE, log 13; safe).
-/

namespace Sys2Proof

/-- The causes of ILLEGAL_REQUEST other than NONE (60_exceptions.md R172). -/
inductive IllegalCause where
  /-- `OP = 0b11`. -/
  | reservedOp
  /-- `RSV != 0`, or CRC8 with `COUNT != 0`. -/
  | reservedBits
  /-- FRAME with `COUNT > MAX_ARGS`. -/
  | argsOverCapacity
  /-- DECODE with `COUNT > MAX_GROUPS`. -/
  | groupsOverCapacity
  deriving DecidableEq, Repr

/-- `OP = DESC[31:30]` (R71). -/
def opField (d : Reg) : BitVec 2 := d.extractLsb' 30 2

/-- `RSV = DESC[29:24]` (R71). -/
def rsvField (d : Reg) : BitVec 6 := d.extractLsb' 24 6

/-- `COUNT = DESC[23:16]` (R71). -/
def countField (d : Reg) : Byte := d.extractLsb' 16 8

/-- `VALUE = DESC[15:0]` (R71). -/
def valueField (d : Reg) : Word := d.extractLsb' 0 16

/-- The row of R79 a descriptor matches, or the cause R78 rejects it for, in the order of R78's checks. -/
def decodeDesc (d : Reg) : Except IllegalCause Instr :=
  if opField d = 0b11#2 then .error .reservedOp
  else if rsvField d ≠ 0 then .error .reservedBits
  else if opField d = 0b00#2 then
    if countField d ≠ 0 then .error .reservedBits else .ok (.crc8 (valueField d))
  else if opField d = 0b01#2 then .ok (.frame (countField d) (valueField d))
  else .ok (.decode (countField d) (valueField d))

/-- The `OP` value of an operation (R71). -/
def Instr.op : Instr → BitVec 2
  | .crc8 _ => 0b00#2
  | .frame _ _ => 0b01#2
  | .decode _ _ => 0b10#2

/-- A descriptor from its fields `OP : RSV : COUNT : VALUE`, with `RSV = 0` (R71). -/
def descriptor (op : BitVec 2) (count : Byte) (value : Word) : Reg :=
  op ++ 0#6 ++ count ++ value

/-- The descriptor of an operation, from the pattern strings of R71. -/
def encodeDesc : Instr → Reg
  | .crc8 w => descriptor 0b00#2 0 w
  | .frame k cmd => descriptor 0b01#2 k cmd
  | .decode n len => descriptor 0b10#2 n len

/-- The instruction the decoder reads from a table word: there is one descriptor length, 32 bits (R70), so a longer word is
no descriptor, and in a shorter one the bits above `nbits` are 0. -/
def decodeTableWord (nbits w : Nat) : Option Instr :=
  if nbits ≤ 32 then (decodeDesc (BitVec.ofNat 32 (w % 2 ^ nbits))).toOption else none

end Sys2Proof
end

