-- ==== Sys2Proof/Machine/State.lean ====
section
/-!
DEFINITION. The state of the block (10_state.md R20 to R37) as plain data, the reasons a step can stop (60_exceptions.md
R175, R176), and the state after reset (R37).
-/

namespace Sys2Proof.Machine

/-- The model has no fault outcome: every behaviour the block defines, error kinds included, is a state (R175). So no step
raises a fault, and the type has no constructor. -/
inductive Fault where
  deriving DecidableEq, Repr

/-- Why a step has no meaning: the closed list of R176, and the name the host's interface asks for. -/
inductive Refusal where
  /-- An operation without a meaning. No arm of `exec` answers it; safe. -/
  | notModelled (mnemonic : String)
  /-- A host write of DESC while BUSY = 1 (70_reset_and_hazards.md R210). Safe: the hardware goes on unspecified. -/
  | descWriteWhileBusy
  /-- A host write of ARG_IN or RAW_IN while BUSY = 1 (R211). Safe: the hardware goes on unspecified. -/
  | inputWriteWhileBusy
  /-- A host read of a result register or output buffer while BUSY = 1 (R212). Safe: an unspecified value. -/
  | resultReadWhileBusy
  /-- A host read of FRAME_OUT or WORDS_OUT outside the defined case of 20_memory.md R52. Safe: an unspecified value. -/
  | outputReadUndefined
  /-- A host read, or a completion's read, of an input entry never written since reset (R53). Safe: an unspecified value. -/
  | unwrittenInputRead
  /-- A host port used with an index outside its range (R54). Safe: an unspecified effect. -/
  | indexOutOfRange
  deriving DecidableEq, Repr

/-- STATUS.RESULT_KIND other than NONE (R25). -/
inductive ResultKind where
  | crc
  | frame
  | words
  | error
  deriving DecidableEq, Repr

/-- STATUS.ERR_KIND other than NONE (R25, R171). -/
inductive ErrKind where
  | checksumMismatch
  | malformedResponse
  | illegalRequest
  deriving DecidableEq, Repr

/-- The fields of STATUS (R25). `none` stands for the value NONE. Bits 31:14 are reserved and read 0: they hold nothing. -/
structure Status where
  busy : Bool
  resultKind : Option ResultKind
  errKind : Option ErrKind
  illegalCause : Option IllegalCause
  lastOp : BitVec 2
  deriving DecidableEq, Repr

/-- What an error records (R170, R171): the arguments of the document's two errors, and the cause of ILLEGAL_REQUEST. -/
inductive ErrorRecord where
  | checksumMismatch (group expected actual : Byte)
  | malformedResponse (expectedLen actualLen : Word)
  | illegalRequest (cause : IllegalCause)
  deriving DecidableEq, Repr

/-- The result value of an operation (R35). -/
inductive Result where
  /-- `ResCrc(c)`. -/
  | crc (c : Byte)
  /-- `ResFrame(f)`. -/
  | frame (f : List Byte)
  /-- `ResWords(ws)`. -/
  | words (ws : List Word)
  /-- `ResErr(E, info)`. -/
  | err (e : ErrorRecord)
  deriving DecidableEq, Repr

/-- A buffer of `w`-bit entries as the list of its entries that hold a value, indices strictly rising (DESIGN CHOICE, log 9; safe). For the two
input buffers an entry is listed exactly when its ghost `written` bit is set (R32). -/
abbrev Buffer (w : Nat) := List (Nat × BitVec w)

/-- The four buffers of R30. -/
structure Memory where
  /-- ARG_IN, 16-bit entries `0 .. MAX_ARGS-1`. -/
  argIn : Buffer 16
  /-- RAW_IN, 8-bit entries `0 .. MAX_RAW-1`. -/
  rawIn : List Host.Cell
  /-- FRAME_OUT, 8-bit entries `0 .. MAX_FRAME-1`. -/
  frameOut : List Host.Cell
  /-- WORDS_OUT, 16-bit entries `0 .. MAX_GROUPS-1`. -/
  wordsOut : Buffer 16
  deriving DecidableEq, Repr

/-- One access of the host: a register access by number (R23, R33), a buffer port (20_memory.md R50), or WAIT, which repeats a
read of STATUS until BUSY = 0 (30_encoding.md R81). -/
inductive HostAccess where
  | writeReg (n : Nat) (v : Reg)
  | readReg (n : Nat)
  | argWrite (i : Nat) (w : Word)
  | argRead (i : Nat)
  | rawWrite (j : Nat) (b : Byte)
  | rawRead (j : Nat)
  | frameRead (j : Nat)
  | wordsRead (g : Nat)
  | wait
  deriving DecidableEq, Repr

/-- What a host read returned, in the width of its access (R61). -/
inductive ReadValue where
  | reg (v : Reg)
  | word (w : Word)
  | byte (b : Byte)
  deriving DecidableEq, Repr

/-- Which agent takes the next step in the total order of R63: the host, the engine (R20), or the reset input (R201). -/
inductive Turn where
  | host
  | engine
  | reset
  deriving DecidableEq, Repr

/-- The state of the block, and of the host as far as the block sees it. -/
structure State where
  /-- MAX_ARGS and MAX_GROUPS, fixed when the block is built (R7, R202). The model's own field (DESIGN CHOICE, log 5; safe). -/
  caps : Capacity
  /-- DESC, register 0: the last accepted descriptor (R24). -/
  desc : Reg
  /-- STATUS, register 1 (R25). -/
  status : Status
  /-- CRC_OUT, register 2 (R26). -/
  crcOut : Reg
  /-- OUT_LEN, register 3 (R27). -/
  outLen : Reg
  /-- ERR_CSUM, register 4 (R28). -/
  errCsum : Reg
  /-- ERR_LEN, register 5 (R29). -/
  errLen : Reg
  /-- The buffers (R30), with the ghost `written` bits (R32). -/
  mem : Memory
  /-- REQ, the copy of DESC the engine performs (R31, R34). -/
  req : Reg
  /-- ACC, the checksum accumulator (R31). -/
  acc : Byte
  /-- The engine's position in an operation (R31). -/
  pos : Nat
  /-- The ghost mark of a refused step (R32, R176). -/
  refused : Bool
  /-- The host's accesses still to come, in program order (R63). The model's own field (DESIGN CHOICE, log 2; safe). -/
  hostQueue : List HostAccess
  /-- Which agent moves next (R63). The model's own field (DESIGN CHOICE, log 1; safe). -/
  turns : List Turn
  /-- What the host's reads returned, newest first (R61). The model's own field (DESIGN CHOICE, log 2; safe). -/
  hostReads : List ReadValue
  /-- Counter of the free values drawn. The model's own field (DESIGN CHOICE, log 7; safe). -/
  fresh : Nat
  deriving DecidableEq, Repr

/-- Every field of STATUS is 0 after reset (R37). -/
def Status.reset : Status :=
  { busy := false, resultKind := none, errKind := none, illegalCause := none, lastOp := 0 }

/-- No buffer entry holds a value after reset, every `written` bit is clear (R37, log 9). -/
def Memory.reset : Memory := { argIn := [], rawIn := [], frameOut := [], wordsOut := [] }

/-- The state after reset of a block with the given parameters (R37, R200). REQ, ACC and the position are unspecified there
and unobservable: DESIGN CHOICE 0, log 6; unsafe for a claim about those three. -/
def State.resetWith (c : Capacity) : State :=
  { caps := c, desc := 0, status := Status.reset, crcOut := 0, outLen := 0, errCsum := 0, errLen := 0,
    mem := Memory.reset, req := 0, acc := 0, pos := 0, refused := false,
    hostQueue := [], turns := [], hostReads := [], fresh := 0 }

/-- The state right after reset, for whatever parameters the block was built with (R37). -/
def State.reset : State := State.resetWith Config.capacity

end Sys2Proof.Machine
end

