-- ==== Sys2Proof/Machine/Flags.lean ====
section
/-!
DEFINITION. STATUS and the result registers as functions of a result value (10_state.md R25 to R29, R35), and the code of
every field value (R25, 60_exceptions.md R171, R172).
-/

namespace Sys2Proof.Machine

/-- RESULT_KIND codes: 0 NONE, 1 CRC, 2 FRAME, 3 WORDS, 4 ERROR (R25). -/
def resultKindCode : Option ResultKind → BitVec 3
  | none => 0
  | some .crc => 1
  | some .frame => 2
  | some .words => 3
  | some .error => 4

/-- ERR_KIND codes: 0 NONE, 1 CHECKSUM_MISMATCH, 2 MALFORMED_RESPONSE, 3 ILLEGAL_REQUEST (R25, R171). -/
def errKindCode : Option ErrKind → BitVec 4
  | none => 0
  | some .checksumMismatch => 1
  | some .malformedResponse => 2
  | some .illegalRequest => 3

/-- ILLEGAL_CAUSE codes: 0 NONE, 1 RESERVED_OP, 2 RESERVED_BITS, 3 ARGS_OVER_CAPACITY, 4 GROUPS_OVER_CAPACITY (R25, R172). -/
def illegalCauseCode : Option IllegalCause → BitVec 4
  | none => 0
  | some .reservedOp => 1
  | some .reservedBits => 2
  | some .argsOverCapacity => 3
  | some .groupsOverCapacity => 4

/-- The 32 bits of STATUS (R25): reserved 31:14, LAST_OP 13:12, ILLEGAL_CAUSE 11:8, ERR_KIND 7:4, RESULT_KIND 3:1, BUSY 0. -/
def Status.word (st : Status) : Reg :=
  0#18 ++ st.lastOp ++ illegalCauseCode st.illegalCause ++ errKindCode st.errKind ++
    resultKindCode st.resultKind ++ BitVec.ofBool st.busy

/-- The error kind of a record (R171). -/
def ErrorRecord.kind : ErrorRecord → ErrKind
  | .checksumMismatch _ _ _ => .checksumMismatch
  | .malformedResponse _ _ => .malformedResponse
  | .illegalRequest _ => .illegalRequest

namespace Result

/-- `STATUS.RESULT_KIND`, by the constructor of the result (R35). -/
def kind : Result → ResultKind
  | .crc _ => .crc
  | .frame _ => .frame
  | .words _ => .words
  | .err _ => .error

/-- `STATUS.ERR_KIND`, the error kind of the result or NONE (R35). -/
def errKind : Result → Option ErrKind
  | .err e => some e.kind
  | _ => none

/-- `STATUS.ILLEGAL_CAUSE`, the cause of an ILLEGAL_REQUEST or NONE (R35). -/
def illegalCause : Result → Option IllegalCause
  | .err (.illegalRequest cause) => some cause
  | _ => none

/-- `CRC_OUT <- zext_32(c)` for a `ResCrc(c)`, else 0 (R26, R35). -/
def crcOut : Result → Reg
  | .crc c => c.setWidth 32
  | _ => 0

/-- `OUT_LEN <- zext_32(len)` for a frame or words, else 0 (R27, R35). -/
def outLen : Result → Reg
  | .frame f => BitVec.ofNat 32 f.length
  | .words ws => BitVec.ofNat 32 ws.length
  | _ => 0

/-- `ERR_CSUM <- 0x00 : a : e : g` for a checksum mismatch, else 0 (R28, R35). -/
def errCsum : Result → Reg
  | .err (.checksumMismatch g e a) => 0x00#8 ++ a ++ e ++ g
  | _ => 0

/-- `ERR_LEN <- al : el` for a malformed response, else 0 (R29, R35). -/
def errLen : Result → Reg
  | .err (.malformedResponse el al) => al ++ el
  | _ => 0

end Result

/-- STATUS after the completion of an operation with `OP = op` and result `r` (R35). -/
def Status.ofResult (op : BitVec 2) (r : Result) : Status :=
  { busy := false, resultKind := some r.kind, errKind := r.errKind, illegalCause := r.illegalCause, lastOp := op }

end Sys2Proof.Machine
end

