-- ==== Sys2Proof/Machine/Operands.lean ====
section
/-!
DEFINITION. Operand forms (30_encoding.md R72, 20_memory.md R57) and the buffer primitives MemRead and MemWrite
(00_scope.md R9) over the canonical lists of entries.
-/

namespace Sys2Proof.Machine

/-- `w[15:8]`, the first byte of a word on the wire (R56, R57). -/
def hiByte (w : Word) : Byte := w.extractLsb' 8 8

/-- `w[7:0]`, the second byte of a word on the wire (R57). -/
def loByte (w : Word) : Byte := w.extractLsb' 0 8

/-- `b0 : b1`, the word of two bytes, `b0` first on the wire (R8, R57). -/
def joinBytes (b0 b1 : Byte) : Word := b0 ++ b1

namespace Buffer

/-- The value of entry `i`, or `none` where the entry holds none. -/
def get {w : Nat} : Buffer w → Nat → Option (BitVec w)
  | [], _ => none
  | (j, v) :: rest, i => if i = j then some v else get rest i

/-- The ghost bit `written(B, i)` (R32). -/
def written {w : Nat} (b : Buffer w) (i : Nat) : Bool := (get b i).isSome

/-- `B[i] <- v`, keeping the indices strictly rising. -/
def set {w : Nat} : Buffer w → Nat → BitVec w → Buffer w
  | [], i, v => [(i, v)]
  | (j, u) :: rest, i, v =>
    if i < j then (i, v) :: (j, u) :: rest
    else if i = j then (i, v) :: rest
    else (j, u) :: set rest i v

/-- `MemRead(B, i, n)` (R9): the `n` entries from `i` on, or `none` where one of them holds no value. -/
def memRead {w : Nat} (b : Buffer w) (i : Nat) : Nat → Option (List (BitVec w))
  | 0 => some []
  | n + 1 =>
    match get b i, memRead b (i + 1) n with
    | some v, some vs => some (v :: vs)
    | _, _ => none

/-- `MemWrite(B, i, len(vs), vs)` (R9). -/
def memWrite {w : Nat} (b : Buffer w) (i : Nat) : List (BitVec w) → Buffer w
  | [] => b
  | v :: vs => memWrite (set b i v) (i + 1) vs

/-- The canonical form: indices strictly rising. -/
def wf {w : Nat} : Buffer w → Bool
  | [] => true
  | [_] => true
  | (i, _) :: (j, v) :: rest => decide (i < j) && wf ((j, v) :: rest)

/-- Every listed index is below `m`. -/
def inRange {w : Nat} (m : Nat) (b : Buffer w) : Bool := b.all fun e => decide (e.1 < m)

end Buffer

/-- Every buffer is in canonical form. -/
def Memory.wf (m : Memory) : Bool :=
  Buffer.wf m.argIn && Buffer.wf m.rawIn && Buffer.wf m.frameOut && Buffer.wf m.wordsOut

/-- Every buffer lists entries only in the index range R30 and R50 give it. -/
def Memory.inRange (c : Capacity) (m : Memory) : Bool :=
  Buffer.inRange c.maxArgs m.argIn && Buffer.inRange c.maxRaw m.rawIn &&
  Buffer.inRange c.maxFrame m.frameOut && Buffer.inRange c.maxGroups m.wordsOut

end Sys2Proof.Machine
end

