-- ==== Sys2Proof/Machine/Ops.lean ====
section
/-!
DEFINITION. The shared operations: `complete` and `raise` (10_state.md R35, 60_exceptions.md R170), the issue of an operation
(R34), register reads (R23 to R29, R33), and the agents' turns (20_memory.md R63).

The block has no trap: an error saves no program counter, changes no mode and jumps nowhere, and there is no return from one
(R178, R179). Raising an error is the commit of an error result, so `raise` is the whole of taking an exception here.
-/

namespace Sys2Proof.Machine

/-- The buffer writes of a commit (R35): FRAME_OUT from a frame, WORDS_OUT from words, nothing otherwise. Entries it does not
write keep what they held. -/
def Memory.commit (m : Memory) : Result → Memory
  | .crc _ => m
  | .frame f => { m with frameOut := Buffer.memWrite m.frameOut 0 f }
  | .words ws => { m with wordsOut := Buffer.memWrite m.wordsOut 0 ws }
  | .err _ => m

/-- `complete(r)` of an operation whose `OP` field is `op` (R35). ACC and the position are left at free values: no value of
them survives an operation (R31; DESIGN CHOICE of the form, log 7, safe). -/
def complete (op : BitVec 2) (r : Result) (s : State) : State :=
  { s with
    status := Status.ofResult op r
    crcOut := r.crcOut
    outLen := r.outLen
    errCsum := r.errCsum
    errLen := r.errLen
    mem := s.mem.commit r
    acc := Config.freeAcc s.fresh
    pos := Config.freePos s.fresh
    fresh := s.fresh + 1 }

/-- `raise E(info)` (R170): the commit of the error result. -/
def raise (op : BitVec 2) (e : ErrorRecord) (s : State) : State := complete op (.err e) s

/-- The issue of descriptor `v` (R34): DESC and REQ take it, BUSY is set, nothing else changes. -/
def issue (v : Reg) (s : State) : State :=
  { s with desc := v, req := v, status := { s.status with busy := true } }

/-- The descriptor the engine performs (R31, R35). -/
def fetch (s : State) : Reg := s.req

/-- What a read of register `n` returns (R23, R33): reserved bits and reserved register numbers read 0 (R25 to R28). DEDUCED
for states whose stored reserved bits are not 0, which no run reaches, log 14; safe. -/
def regValue (s : State) (n : Nat) : Reg :=
  match n with
  | 0 => s.desc
  | 1 => s.status.word
  | 2 => s.crcOut &&& 0x000000FF#32
  | 3 => s.outLen &&& 0x0000FFFF#32
  | 4 => s.errCsum &&& 0x00FFFFFF#32
  | 5 => s.errLen
  | _ => 0

/-- The numbers of the result registers CRC_OUT, OUT_LEN, ERR_CSUM and ERR_LEN (R23), which are not read while busy (R212). -/
def isResultReg (n : Nat) : Bool := decide (2 ≤ n ∧ n ≤ 5)

/-- The host's read returns `v`. No read changes the block (20_memory.md R61). -/
def returnRead (v : ReadValue) (s : State) : State := { s with hostReads := v :: s.hostReads }

/-- The agent that moves next: the head of `turns`; with `turns` empty, the engine while BUSY = 1 and the host otherwise
(DESIGN CHOICE, log 1, safe; this is the weak fairness of 70_reset_and_hazards.md R216). -/
def State.agent (s : State) : Turn :=
  match s.turns with
  | t :: _ => t
  | [] => if s.status.busy then .engine else .host

/-- The state with its first turn taken. -/
def State.popTurn (s : State) : State := { s with turns := s.turns.tail }

/-- The ghost mark of a refused step (R32, R176). -/
def State.markRefused (s : State) : State := { s with refused := true }

end Sys2Proof.Machine
end

