-- ==== Sys2Proof/Machine/Frame.lean ====
section
/-!
DEFINITION. The command frame builder (41_frame.md R120) and the FRAME operation (R121).
-/

namespace Sys2Proof.Machine

/-- An argument word on the wire: its two bytes, then their checksum (30_encoding.md R73, R74). -/
def wordGroup (w : Word) : List Byte := [hiByte w, loByte w, crc8Word (hiByte w) (loByte w)]

/-- The word groups of a sequence of words, in order. -/
def wordGroups : List Word → List Byte
  | [] => []
  | w :: ws => wordGroup w ++ wordGroups ws

/-- `build_frame(cmd, a)` (R120): the command code, most significant byte first, then a word group per argument word. -/
def buildFrame (cmd : Word) (args : List Word) : List Byte :=
  hiByte cmd :: loByte cmd :: wordGroups args

/-- FRAME (R121, with the capacity check of R78). An argument entry never written since reset is refused (R53). -/
def execFrame (k : Byte) (cmd : Word) (s : State) : Host.Outcome State Fault Refusal :=
  if s.caps.maxArgs < k.toNat then
    .next (raise 0b01#2 (.illegalRequest .argsOverCapacity) s)
  else
    match Buffer.memRead s.mem.argIn 0 k.toNat with
    | none => .refused .unwrittenInputRead
    | some args => .next (complete 0b01#2 (.frame (buildFrame cmd args)) s)

end Sys2Proof.Machine
end

