-- ==== Sys2Proof/Machine/Response.lean ====
section
/-!
DEFINITION. The response word-group parser (42_decode.md R140) and the DECODE operation (R141).
-/

namespace Sys2Proof.Machine

/-- The loop of R140 over the groups of a response, from group index `g` on: the first group whose third byte is not the
checksum of its first two ends it, else the data words are returned in order. -/
def checkGroups : Nat → List Byte → Except ErrorRecord (List Word)
  | g, b0 :: b1 :: c :: rest =>
    if crc8Word b0 b1 = c then
      match checkGroups (g + 1) rest with
      | .ok ws => .ok (joinBytes b0 b1 :: ws)
      | .error e => .error e
    else .error (.checksumMismatch (BitVec.ofNat 8 g) (crc8Word b0 b1) c)
  | _, _ => .ok []

/-- The error of a response of `len` bytes where `n` groups are expected (R140, R29). -/
def lengthError (n len : Nat) : ErrorRecord :=
  .malformedResponse (BitVec.ofNat 16 (3 * n)) (BitVec.ofNat 16 len)

/-- `decode_groups(raw, n)` (R140). -/
def decodeGroups (raw : List Byte) (n : Nat) : Except ErrorRecord (List Word) :=
  if raw.length ≠ 3 * n then .error (lengthError n raw.length) else checkGroups 0 raw

/-- DECODE (R141, with the capacity check of R78): the length test is made on `L` before any entry is read. A response entry
never written since reset is refused (R53). -/
def execDecode (n : Byte) (len : Word) (s : State) : Host.Outcome State Fault Refusal :=
  if s.caps.maxGroups < n.toNat then
    .next (raise 0b10#2 (.illegalRequest .groupsOverCapacity) s)
  else if len.toNat ≠ 3 * n.toNat then
    .next (raise 0b10#2 (lengthError n.toNat len.toNat) s)
  else
    match Buffer.memRead s.mem.rawIn 0 len.toNat with
    | none => .refused .unwrittenInputRead
    | some raw =>
      match decodeGroups raw n.toNat with
      | .error e => .next (raise 0b10#2 e s)
      | .ok ws => .next (complete 0b10#2 (.words ws) s)

end Sys2Proof.Machine
end

