-- ==== Sys2Proof/Machine/Dispatch.lean ====
section
/-!
DEFINITION. The dispatch of `Exec` (30_encoding.md R78): one arm per operation. The arms are the completion of R35; that the
engine is enabled (BUSY = 1) is checked where a step takes it (DESIGN CHOICE, log 16; safe).
-/

namespace Sys2Proof.Machine

def exec (i : Instr) (s : State) : Host.Outcome State Fault Refusal :=
  match i with
  | .crc8 w => Sys2Proof.Machine.execCrc8 w s
  | .frame k cmd => Sys2Proof.Machine.execFrame k cmd s
  | .decode n len => Sys2Proof.Machine.execDecode n len s

end Sys2Proof.Machine
end

