-- ==== Sys2Proof/Machine/Engine.lean ====
section
/-!
DEFINITION. The engine's step (10_state.md R35): enabled exactly when BUSY = 1; it performs REQ, or completes it with
ILLEGAL_REQUEST where no row of the opcode map matches (30_encoding.md R78, R79).
-/

namespace Sys2Proof.Machine

/-- The completion of the descriptor in REQ (R35, R78). -/
def engineComplete (s : State) : Host.Outcome State Fault Refusal :=
  match decodeDesc (fetch s) with
  | .error cause => .next (raise (opField (fetch s)) (.illegalRequest cause) s)
  | .ok i => exec i s

/-- The engine's turn: nothing to do while BUSY = 0 (R35; DESIGN CHOICE, log 4; safe). -/
def engineStep (s : State) : Host.Outcome State Fault Refusal :=
  if s.status.busy then engineComplete s else .next s

end Sys2Proof.Machine
end

