-- ==== Sys2Proof/Machine/HostPort.lean ====
section
/-!
DEFINITION. The host's accesses (10_state.md R33, R34; 20_memory.md R50 to R54; 70_reset_and_hazards.md R210 to R212), one
definition each, and the host's turn. Where two reasons to refuse hold at once, the index range is judged first, then the busy
hazard, then whether the entry holds a value (DESIGN CHOICE of the name only, log 10; safe).
-/

namespace Sys2Proof.Machine

/-- A write of register `n`: a write of DESC issues an operation (R34), refused while BUSY = 1 (R210); a write of any other
register has no effect (R23, R33). -/
def hostWriteReg (n : Nat) (v : Reg) (s : State) : Host.Outcome State Fault Refusal :=
  if n = 0 then
    if s.status.busy then .refused .descWriteWhileBusy else .next (issue v s)
  else .next s

/-- A read of register `n` (R23, R33): the four result registers are refused while BUSY = 1 (R212). A reserved number reads 0
busy or not: DEDUCED, log 14; safe. -/
def hostReadReg (n : Nat) (s : State) : Host.Outcome State Fault Refusal :=
  if s.status.busy && isResultReg n then .refused .resultReadWhileBusy
  else .next (returnRead (.reg (regValue s n)) s)

/-- `ArgWrite(i, w)` (R50), refused while BUSY = 1 (R211). -/
def hostArgWrite (i : Nat) (w : Word) (s : State) : Host.Outcome State Fault Refusal :=
  if s.caps.maxArgs ≤ i then .refused .indexOutOfRange
  else if s.status.busy then .refused .inputWriteWhileBusy
  else .next { s with mem := { s.mem with argIn := Buffer.set s.mem.argIn i w } }

/-- `RawWrite(j, b)` (R50), refused while BUSY = 1 (R211). -/
def hostRawWrite (j : Nat) (b : Byte) (s : State) : Host.Outcome State Fault Refusal :=
  if s.caps.maxRaw ≤ j then .refused .indexOutOfRange
  else if s.status.busy then .refused .inputWriteWhileBusy
  else .next { s with mem := { s.mem with rawIn := Buffer.set s.mem.rawIn j b } }

/-- `ArgRead(i)` (R50, R53); allowed while BUSY = 1 (R212). -/
def hostArgRead (i : Nat) (s : State) : Host.Outcome State Fault Refusal :=
  if s.caps.maxArgs ≤ i then .refused .indexOutOfRange
  else
    match Buffer.get s.mem.argIn i with
    | none => .refused .unwrittenInputRead
    | some w => .next (returnRead (.word w) s)

/-- `RawRead(j)` (R50, R53); allowed while BUSY = 1 (R212). -/
def hostRawRead (j : Nat) (s : State) : Host.Outcome State Fault Refusal :=
  if s.caps.maxRaw ≤ j then .refused .indexOutOfRange
  else
    match Buffer.get s.mem.rawIn j with
    | none => .refused .unwrittenInputRead
    | some b => .next (returnRead (.byte b) s)

/-- `FrameRead(j)` (R50): defined exactly when BUSY = 0, RESULT_KIND = FRAME and `j < OUT_LEN` (R52, R212). In a state no run
reaches, where such an entry holds no value, it is refused: DESIGN CHOICE, log 17; safe. -/
def hostFrameRead (j : Nat) (s : State) : Host.Outcome State Fault Refusal :=
  if s.caps.maxFrame ≤ j then .refused .indexOutOfRange
  else if s.status.busy then .refused .resultReadWhileBusy
  else if s.status.resultKind = some .frame ∧ j < s.outLen.toNat then
    match Buffer.get s.mem.frameOut j with
    | none => .refused .outputReadUndefined
    | some b => .next (returnRead (.byte b) s)
  else .refused .outputReadUndefined

/-- `WordsRead(g)` (R50): defined exactly when BUSY = 0, RESULT_KIND = WORDS and `g < OUT_LEN` (R52, R212); as for FRAME_OUT,
log 17. -/
def hostWordsRead (g : Nat) (s : State) : Host.Outcome State Fault Refusal :=
  if s.caps.maxGroups ≤ g then .refused .indexOutOfRange
  else if s.status.busy then .refused .resultReadWhileBusy
  else if s.status.resultKind = some .words ∧ g < s.outLen.toNat then
    match Buffer.get s.mem.wordsOut g with
    | none => .refused .outputReadUndefined
    | some w => .next (returnRead (.word w) s)
  else .refused .outputReadUndefined

/-- One poll of WAIT: a read of STATUS (30_encoding.md R81). -/
def hostWait (s : State) : Host.Outcome State Fault Refusal := hostReadReg 1 s

/-- One host access. -/
def hostAccess (a : HostAccess) (s : State) : Host.Outcome State Fault Refusal :=
  match a with
  | .writeReg n v => hostWriteReg n v s
  | .readReg n => hostReadReg n s
  | .argWrite i w => hostArgWrite i w s
  | .argRead i => hostArgRead i s
  | .rawWrite j b => hostRawWrite j b s
  | .rawRead j => hostRawRead j s
  | .frameRead j => hostFrameRead j s
  | .wordsRead g => hostWordsRead g s
  | .wait => hostWait s

/-- The accesses still to come after the host's turn: its first one is spent, but WAIT stays while BUSY = 1 (R81). -/
def queueAfter (busy : Bool) : List HostAccess → List HostAccess
  | [] => []
  | a :: rest => if a = .wait ∧ busy = true then a :: rest else rest

/-- The host's turn: its next access, or nothing where none is left (DESIGN CHOICE, log 4; safe). -/
def hostStep (s : State) : Host.Outcome State Fault Refusal :=
  match s.hostQueue with
  | [] => .next s
  | a :: _ => hostAccess a { s with hostQueue := queueAfter s.status.busy s.hostQueue }

end Sys2Proof.Machine
end

