-- ==== Sys2Proof/Machine/Reset.lean ====
section
/-!
DEFINITION. The reset input (70_reset_and_hazards.md R200, R201): every piece of the block's state takes its value of
10_state.md R37, whether or not an operation is in flight. The ghost mark is not cleared (R176), and the parameters, which are
fixed when the block is built, and the host are not the block's to reset (DEDUCED, log 11; unsafe).
-/

namespace Sys2Proof.Machine

/-- The reset step, enabled in every state (R201). -/
def resetStep (s : State) : State :=
  { State.resetWith s.caps with
    refused := s.refused
    hostQueue := s.hostQueue
    turns := s.turns
    hostReads := s.hostReads
    fresh := s.fresh }

end Sys2Proof.Machine
end

