-- ==== Sys2Proof/Machine/Step.lean ====
section
/-!
DEFINITION. One step of the machine: one host access, one engine completion or one reset, in the total order of 20_memory.md
R63; and the placing of a descriptor where the engine takes its next operation.
-/

namespace Sys2Proof.Machine

/-- One step: the agent whose turn it is moves (R63, log 1). -/
def step (s : State) : Host.Outcome State Fault Refusal :=
  match s.agent with
  | .host => hostStep s.popTurn
  | .engine => engineStep s.popTurn
  | .reset => .next (resetStep s.popTurn)

/-- The state a refused step leaves in the spec's own terms (R32, R176): the mark is set, the turn is spent, and the host's
access, where it was the host's turn, is spent. What the hardware does then is unspecified (DESIGN CHOICE, log 8; unsafe for a
claim about a marked state other than its mark). -/
def afterRefusal (s : State) : State :=
  match s.agent with
  | .host => { s.popTurn with hostQueue := queueAfter s.status.busy s.hostQueue }.markRefused
  | .engine => s.popTurn.markRefused
  | .reset => s.popTurn.markRefused

/-- The step as R175 and R176 give it: a refused step sets the ghost mark, and the order of steps goes on. Every claim about
what the block does takes "the mark is clear" as a premise, which `step` gives by answering a next state. -/
def stepMarked (s : State) : State :=
  match step s with
  | .next t => t
  | .fault r => nomatch r
  | .refused _ => afterRefusal s

/-- `s` with the descriptor `w` issued (R34) and the engine next to move, so that the very next step performs it (DESIGN CHOICE, log 3; safe). -/
def State.withFetchWord (s : State) (nbits w : Nat) : State :=
  { issue (BitVec.ofNat 32 (w % 2 ^ nbits)) s with turns := .engine :: s.turns }

end Sys2Proof.Machine
end

