-- ==== Sys2Proof/Machine/Commands.lean ====
section
/-!
DEFINITION. The sensor command codes and response lengths the framer and the parser are used with (30_encoding.md R76, R77;
42_decode.md R148). They are the document's constants; the block restricts no operation to them (R76, R123).
-/

namespace Sys2Proof.Machine

/-- The five commands of the table of R76. -/
inductive SensorCommand where
  | startMeasurement
  | stopMeasurement
  | readDataReady
  | readMeasuredValues
  | enterCleaning
  deriving DecidableEq, Repr

/-- The two output layouts of R76 and R77. -/
inductive OutputLayout where
  | float
  | integer
  deriving DecidableEq, Repr

namespace SensorCommand

/-- The command code (R76). -/
def code : SensorCommand → Word
  | startMeasurement => 0x0010
  | stopMeasurement => 0x0104
  | readDataReady => 0x0202
  | readMeasuredValues => 0x0300
  | enterCleaning => 0x1004

/-- `FRAME` k: the argument-word count (R76). -/
def argCount : SensorCommand → Nat
  | startMeasurement => 1
  | _ => 0

/-- Frame length (R76). -/
def frameLength : SensorCommand → Nat
  | startMeasurement => 5
  | _ => 2

/-- `DECODE` n: the response's group count in the given layout, or none where the command has no response (R76, R148). -/
def responseGroups : SensorCommand → OutputLayout → Option Nat
  | readDataReady, _ => some 1
  | readMeasuredValues, .float => some 20
  | readMeasuredValues, .integer => some 10
  | _, _ => none

/-- `DECODE` L: the response's length in bytes (R76). -/
def responseLength : SensorCommand → OutputLayout → Option Nat
  | readDataReady, _ => some 3
  | readMeasuredValues, .float => some 60
  | readMeasuredValues, .integer => some 30
  | _, _ => none

end SensorCommand

/-- The argument word of start measurement, the output format selector (R77). -/
def formatSelector : OutputLayout → Word
  | .float => 0x0300
  | .integer => 0x0500

end Sys2Proof.Machine
end

