-- ==== Sys2Proof/Machine/Assembler.lean ====
section
/-!
DEFINITION. The host-side statements and pseudo-instructions (30_encoding.md R81, R82) as the host accesses they stand for,
and their textual form. It has no effect on the hardware (D24): a program of statements is a `hostQueue`.
-/

namespace Sys2Proof.Machine

/-- The register names of `RDREG` (R81). -/
inductive RegName where
  | desc
  | status
  | crcOut
  | outLen
  | errCsum
  | errLen
  deriving DecidableEq, Repr

/-- The number of a register (10_state.md R23). -/
def RegName.number : RegName → Nat
  | desc => 0
  | status => 1
  | crcOut => 2
  | outLen => 3
  | errCsum => 4
  | errLen => 5

/-- The statements of R81. -/
inductive Stmt where
  | crc8 (w : Word)
  | frame (cmd : Word) (k : Byte)
  | decode (n : Byte) (len : Word)
  | wrdesc (v : Reg)
  | wrarg (i : Nat) (w : Word)
  | wrraw (j : Nat) (bs : List Byte)
  | rdreg (r : RegName)
  | rdframe (j : Nat)
  | rdword (g : Nat)
  | wait
  deriving DecidableEq, Repr

/-- `RawWrite(j, b0)`, `RawWrite(j+1, b1)`, and so on (R81). -/
def rawWrites (j : Nat) : List Byte → List HostAccess
  | [] => []
  | b :: bs => .rawWrite j b :: rawWrites (j + 1) bs

/-- The meaning of a statement (R81), the descriptors in the `or` form of R81. -/
def Stmt.accesses : Stmt → List HostAccess
  | crc8 w => [.writeReg 0 (0x00000000#32 ||| w.setWidth 32)]
  | frame cmd k => [.writeReg 0 (0x40000000#32 ||| (k.setWidth 32 <<< 16) ||| cmd.setWidth 32)]
  | decode n len => [.writeReg 0 (0x80000000#32 ||| (n.setWidth 32 <<< 16) ||| len.setWidth 32)]
  | wrdesc v => [.writeReg 0 v]
  | wrarg i w => [.argWrite i w]
  | wrraw j bs => rawWrites j bs
  | rdreg r => [.readReg r.number]
  | rdframe j => [.frameRead j]
  | rdword g => [.wordsRead g]
  | wait => [.wait]

/-- The pseudo-instructions of R82. -/
inductive Pseudo where
  | crc8b (b0 b1 : Byte)
  | frameStartFloat
  | frameStartInt
  | frameStop
  | frameReadReady
  | frameReadValues
  | frameClean
  | checkReady (len : Word)
  | checkValuesFloat (len : Word)
  | checkValuesInt (len : Word)
  deriving DecidableEq, Repr

/-- Their expansions (R82). -/
def Pseudo.expand : Pseudo → List Stmt
  | crc8b b0 b1 => [.crc8 ((b0.setWidth 16 <<< 8) ||| b1.setWidth 16)]
  | frameStartFloat => [.wrarg 0 (formatSelector .float), .frame SensorCommand.startMeasurement.code 1]
  | frameStartInt => [.wrarg 0 (formatSelector .integer), .frame SensorCommand.startMeasurement.code 1]
  | frameStop => [.frame SensorCommand.stopMeasurement.code 0]
  | frameReadReady => [.frame SensorCommand.readDataReady.code 0]
  | frameReadValues => [.frame SensorCommand.readMeasuredValues.code 0]
  | frameClean => [.frame SensorCommand.enterCleaning.code 0]
  | checkReady len => [.decode 1 len]
  | checkValuesFloat len => [.decode 20 len]
  | checkValuesInt len => [.decode 10 len]

/-- The host accesses of a program of statements, in order. -/
def assemble : List Stmt → List HostAccess
  | [] => []
  | st :: rest => st.accesses ++ assemble rest

/-! The textual form (R81): one statement a line, `;` starts a comment, numbers are decimal or `0x` hexadecimal. -/

/-- A token: a run of characters between separators, or the comma that separates operands. -/
inductive Token where
  | text (cs : List Char)
  | comma
  deriving DecidableEq, Repr

/-- The token a run of characters, held last first, stands for. -/
def flushToken : List Char → List Token
  | [] => []
  | c :: cs => [.text (c :: cs).reverse]

/-- The tokens of a line up to its comment; the first argument is the run read so far, last character first. -/
def tokens : List Char → List Char → List Token
  | run, [] => flushToken run
  | run, c :: cs =>
    if c = ';' then flushToken run
    else if c = ',' then flushToken run ++ .comma :: tokens [] cs
    else if c = ' ' ∨ c = '\t' then flushToken run ++ tokens [] cs
    else tokens (c :: run) cs

/-- The value of a digit, or none where the character is no digit of the base. -/
def digitValue (base : Nat) (c : Char) : Option Nat :=
  let n := c.toNat
  let v :=
    if 48 ≤ n ∧ n ≤ 57 then n - 48
    else if 65 ≤ n ∧ n ≤ 70 then n - 55
    else if 97 ≤ n ∧ n ≤ 102 then n - 87
    else base
  if v < base then some v else none

/-- The value of a run of digits, most significant first, on top of `acc`. -/
def digitsValue (base : Nat) : Nat → List Char → Option Nat
  | acc, [] => some acc
  | acc, c :: cs =>
    match digitValue base c with
    | some d => digitsValue base (acc * base + d) cs
    | none => none

/-- A number: decimal, or hexadecimal after `0x`; an underscore only groups digits (00_scope.md R8). R8 and R81 do not say what a
token of underscores without a digit means: `_` and `0x_` read as 0 (DESIGN CHOICE, log 18; unsafe for a claim about program
text only). -/
def numberValue (cs : List Char) : Option Nat :=
  match cs with
  | '0' :: 'x' :: d :: ds => digitsValue 16 0 ((d :: ds).filter fun c => c ≠ '_')
  | d :: ds => digitsValue 10 0 ((d :: ds).filter fun c => c ≠ '_')
  | [] => none

/-- A number that fits `w` bits. -/
def fieldValue (w : Nat) (cs : List Char) : Option (BitVec w) :=
  match numberValue cs with
  | some n => if n < 2 ^ w then some (BitVec.ofNat w n) else none
  | none => none

/-- A byte of a byte sequence: two hexadecimal digits, as R8 writes such sequences, or a number (DEDUCED, log 12; unsafe for a claim about program text only). -/
def byteValue (cs : List Char) : Option Byte :=
  match cs with
  | [a, b] => (digitsValue 16 0 [a, b]).map (BitVec.ofNat 8)
  | _ => fieldValue 8 cs

/-- The bytes of `WRRAW` (R81). R81 shows `b0 b1 ...` and does not say whether there may be no byte: a line `WRRAW j,` is a
statement of no access (DESIGN CHOICE, log 18; unsafe for a claim about program text only). -/
def byteSequence : List Token → Option (List Byte)
  | [] => some []
  | .comma :: _ => none
  | .text cs :: rest =>
    match byteValue cs, byteSequence rest with
    | some b, some bs => some (b :: bs)
    | _, _ => none

/-- A register name (R81). -/
def regNameOf (cs : List Char) : Option RegName :=
  if cs = ['D', 'E', 'S', 'C'] then some .desc
  else if cs = ['S', 'T', 'A', 'T', 'U', 'S'] then some .status
  else if cs = ['C', 'R', 'C', '_', 'O', 'U', 'T'] then some .crcOut
  else if cs = ['O', 'U', 'T', '_', 'L', 'E', 'N'] then some .outLen
  else if cs = ['E', 'R', 'R', '_', 'C', 'S', 'U', 'M'] then some .errCsum
  else if cs = ['E', 'R', 'R', '_', 'L', 'E', 'N'] then some .errLen
  else none

/-- A statement without operands: `WAIT` (R81) and the pseudo-instructions of R82 that take none. -/
def stmtNullary (m : List Char) : Option (List Stmt) :=
  if m = ['W', 'A', 'I', 'T'] then some [.wait]
  else if m = "FRAME_START_FLOAT".toList then some Pseudo.frameStartFloat.expand
  else if m = "FRAME_START_INT".toList then some Pseudo.frameStartInt.expand
  else if m = "FRAME_STOP".toList then some Pseudo.frameStop.expand
  else if m = "FRAME_READ_READY".toList then some Pseudo.frameReadReady.expand
  else if m = "FRAME_READ_VALUES".toList then some Pseudo.frameReadValues.expand
  else if m = "FRAME_CLEAN".toList then some Pseudo.frameClean.expand
  else none

/-- A statement with one operand (R81, R82). -/
def stmtUnary (m a : List Char) : Option (List Stmt) :=
  if m = "CRC8".toList then (fieldValue 16 a).map fun w => [.crc8 w]
  else if m = "WRDESC".toList then (fieldValue 32 a).map fun v => [.wrdesc v]
  else if m = "RDREG".toList then (regNameOf a).map fun r => [.rdreg r]
  else if m = "RDFRAME".toList then (numberValue a).map fun j => [.rdframe j]
  else if m = "RDWORD".toList then (numberValue a).map fun g => [.rdword g]
  else if m = "CHECK_READY".toList then (fieldValue 16 a).map fun l => (Pseudo.checkReady l).expand
  else if m = "CHECK_VALUES_FLOAT".toList then (fieldValue 16 a).map fun l => (Pseudo.checkValuesFloat l).expand
  else if m = "CHECK_VALUES_INT".toList then (fieldValue 16 a).map fun l => (Pseudo.checkValuesInt l).expand
  else none

/-- A statement with two operands (R81, R82). -/
def stmtBinary (m a b : List Char) : Option (List Stmt) :=
  if m = "FRAME".toList then
    (fieldValue 16 a).bind fun cmd => (fieldValue 8 b).map fun k => [.frame cmd k]
  else if m = "DECODE".toList then
    (fieldValue 8 a).bind fun n => (fieldValue 16 b).map fun l => [.decode n l]
  else if m = "WRARG".toList then
    (numberValue a).bind fun i => (fieldValue 16 b).map fun w => [.wrarg i w]
  else if m = "CRC8B".toList then
    (fieldValue 8 a).bind fun b0 => (fieldValue 8 b).map fun b1 => (Pseudo.crc8b b0 b1).expand
  else none

/-- The statements a line of tokens stands for: none where it is no statement of R81 or R82, no statement for a blank line. -/
def stmtsOf : List Token → Option (List Stmt)
  | [] => some []
  | [.text m] => stmtNullary m
  | [.text m, .text a] => stmtUnary m a
  | .text m :: .text a :: .comma :: rest =>
    if m = "WRRAW".toList then
      match numberValue a, byteSequence rest with
      | some j, some bs => some [.wrraw j bs]
      | _, _ => none
    else
      match rest with
      | [.text b] => stmtBinary m a b
      | _ => none
  | _ => none

/-- The lines of a text; the first argument is the line read so far, last character first. -/
def textLines : List Char → List Char → List (List Char)
  | run, [] => [run.reverse]
  | run, c :: cs => if c = '\n' then run.reverse :: textLines [] cs else textLines (c :: run) cs

/-- The statements of a list of lines. -/
def stmtsOfLines : List (List Char) → Option (List Stmt)
  | [] => some []
  | l :: ls =>
    match stmtsOf (tokens [] l), stmtsOfLines ls with
    | some a, some b => some (a ++ b)
    | _, _ => none

/-- The host accesses of a program text, or none where a line is no statement. -/
def assembleText (text : List Char) : Option (List HostAccess) :=
  (stmtsOfLines (textLines [] text)).map assemble

end Sys2Proof.Machine
end

