-- ==== Sys2Proof/Safety.lean ====
section
/-!
DEFINITION. What the statements call a safe step and a sound state: the invariants of 10_state.md R36 with those that keep
every defined read defined, and the equality of two blocks as far as the host can see them (R31, R52, R213).
-/

namespace Sys2Proof.Machine

/-- The step has a meaning: it is not refused (60_exceptions.md R175). -/
def State.StepSafe (s : State) : Prop := ∃ t, step s = .next t

/-- `t` is reached from `s` by `n` steps, none of them refused. -/
def StepsTo : Nat → State → State → Prop
  | 0, s, t => s = t
  | n + 1, s, t => ∃ u, step s = .next u ∧ StepsTo n u t

/-- The engine moves next and is enabled (10_state.md R35). -/
def State.EngineReady (s : State) : Prop := s.agent = .engine ∧ s.status.busy = true

/-- The frame of a completion: what no completion of any operation changes (R35, 20_memory.md R50). ACC, the position and the
counter of free values are the only fields a completion may change besides STATUS, the four result registers and the output
buffers. -/
structure CompletionFrame (s t : State) : Prop where
  caps : t.caps = s.caps
  desc : t.desc = s.desc
  req : t.req = s.req
  argIn : t.mem.argIn = s.mem.argIn
  rawIn : t.mem.rawIn = s.mem.rawIn
  refused : t.refused = s.refused
  hostQueue : t.hostQueue = s.hostQueue
  turns : t.turns = s.turns
  hostReads : t.hostReads = s.hostReads

/-- The completion of an illegal descriptor (60_exceptions.md R170, R172): `t` is `s` with the error committed, no buffer
written, and the `OP` field recorded. -/
structure IllegalCommitted (s t : State) (op : BitVec 2) (cause : IllegalCause) : Prop where
  status : t.status =
    { busy := false, resultKind := some .error, errKind := some .illegalRequest, illegalCause := some cause, lastOp := op }
  crcOut : t.crcOut = 0
  outLen : t.outLen = 0
  errCsum : t.errCsum = 0
  errLen : t.errLen = 0
  mem : t.mem = s.mem
  rest : CompletionFrame s t

/-- What a reset leaves, of the state the spec gives a reset value (R37, 70_reset_and_hazards.md R200). -/
structure ResetValues (t : State) : Prop where
  desc : t.desc = 0
  statusFields : t.status = { busy := false, resultKind := none, errKind := none, illegalCause := none, lastOp := 0 }
  statusWord : t.status.word = 0
  crcOut : t.crcOut = 0
  outLen : t.outLen = 0
  errCsum : t.errCsum = 0
  errLen : t.errLen = 0
  argUnwritten : ∀ i, Buffer.written t.mem.argIn i = false
  rawUnwritten : ∀ j, Buffer.written t.mem.rawIn j = false

/-- The host accesses that read (20_memory.md R50, R61). -/
def HostAccess.isRead : HostAccess → Bool
  | .readReg _ | .argRead _ | .rawRead _ | .frameRead _ | .wordsRead _ | .wait => true
  | .writeReg _ _ | .argWrite _ _ | .rawWrite _ _ => false

/-- The entries an operation reads, one by one, hold values (R51): ARG_IN[0..k-1] for a legal FRAME, RAW_IN[0..L-1] for a
legal DECODE of the right length, none otherwise. -/
def State.InputsWritten (s : State) : Instr → Prop
  | .crc8 _ => True
  | .frame k _ => k.toNat ≤ s.caps.maxArgs → ∀ i < k.toNat, Buffer.written s.mem.argIn i = true
  | .decode n len => n.toNat ≤ s.caps.maxGroups → len.toNat = 3 * n.toNat →
      ∀ j < len.toNat, Buffer.written s.mem.rawIn j = true

/-- The invariants of a reachable state, field by field. Those up to `wordsLen` are the ones R36 lists. -/
structure State.Inv (s : State) : Prop where
  /-- `RESULT_KIND = ERROR` exactly when `ERR_KIND != NONE`. -/
  errorKind : s.status.resultKind = some .error ↔ s.status.errKind ≠ none
  /-- `ILLEGAL_CAUSE != NONE` exactly when `ERR_KIND = ILLEGAL_REQUEST`. -/
  causeKind : s.status.illegalCause ≠ none ↔ s.status.errKind = some .illegalRequest
  /-- `CRC_OUT != 0` only when `RESULT_KIND = CRC`. -/
  crcKind : s.crcOut ≠ 0 → s.status.resultKind = some .crc
  /-- `OUT_LEN != 0` only when `RESULT_KIND` is FRAME or WORDS. -/
  lenKind : s.outLen ≠ 0 → s.status.resultKind = some .frame ∨ s.status.resultKind = some .words
  /-- `ERR_CSUM != 0` only when `ERR_KIND = CHECKSUM_MISMATCH`. -/
  csumKind : s.errCsum ≠ 0 → s.status.errKind = some .checksumMismatch
  /-- `ERR_LEN != 0` only when `ERR_KIND = MALFORMED_RESPONSE`. -/
  errLenKind : s.errLen ≠ 0 → s.status.errKind = some .malformedResponse
  /-- After a FRAME, `OUT_LEN` is `2 + 3*k` with `k <= MAX_ARGS`. -/
  frameLen : s.status.resultKind = some .frame → ∃ k ≤ s.caps.maxArgs, s.outLen.toNat = 2 + 3 * k
  /-- After a successful DECODE, `OUT_LEN = n <= MAX_GROUPS`. -/
  wordsLen : s.status.resultKind = some .words → s.outLen.toNat ≤ s.caps.maxGroups
  /-- The reserved bits of CRC_OUT, OUT_LEN and ERR_CSUM are 0 (R26 to R28), so a read returns the register whole. -/
  reservedBits : s.crcOut.toNat < 2 ^ 8 ∧ s.outLen.toNat < 2 ^ 16 ∧ s.errCsum.toNat < 2 ^ 24
  /-- While BUSY = 1 the engine performs the descriptor DESC holds (R34). -/
  reqDesc : s.status.busy = true → s.req = s.desc
  /-- Every byte of the last built frame is there to be read (R52). -/
  frameHeld : s.status.resultKind = some .frame → ∀ j < s.outLen.toNat, Buffer.get s.mem.frameOut j ≠ none
  /-- Every word of the last decoded response is there to be read (R52). -/
  wordsHeld : s.status.resultKind = some .words → ∀ g < s.outLen.toNat, Buffer.get s.mem.wordsOut g ≠ none
  /-- The buffers are in canonical form. -/
  memWf : s.mem.wf = true
  /-- The buffers hold entries only in their index ranges (R30, R50). -/
  memRange : s.mem.inRange s.caps = true
  /-- The parameters lie in their ranges (R7). -/
  capsOk : s.caps.Ok

/-- Two states the host cannot tell apart: every register, input buffer and pending access agrees, and of the output buffers
the readable entries agree (R52). REQ counts only while BUSY = 1; ACC, the position, the counter of free values and the
unreadable entries of the output buffers do not count (R31, R213). -/
structure HostEq (s t : State) : Prop where
  caps : s.caps = t.caps
  desc : s.desc = t.desc
  status : s.status = t.status
  crcOut : s.crcOut = t.crcOut
  outLen : s.outLen = t.outLen
  errCsum : s.errCsum = t.errCsum
  errLen : s.errLen = t.errLen
  argIn : s.mem.argIn = t.mem.argIn
  rawIn : s.mem.rawIn = t.mem.rawIn
  refused : s.refused = t.refused
  hostQueue : s.hostQueue = t.hostQueue
  turns : s.turns = t.turns
  hostReads : s.hostReads = t.hostReads
  req : s.status.busy = true → s.req = t.req
  frameOut : s.status.busy = false → s.status.resultKind = some .frame →
    ∀ j < s.outLen.toNat, Buffer.get s.mem.frameOut j = Buffer.get t.mem.frameOut j
  wordsOut : s.status.busy = false → s.status.resultKind = some .words →
    ∀ g < s.outLen.toNat, Buffer.get s.mem.wordsOut g = Buffer.get t.mem.wordsOut g

/-- Two outcomes that agree up to `HostEq`: both a next state, the two equal to the host, or both refused for one reason. -/
def OutcomeEq : Host.Outcome State Fault Refusal → Host.Outcome State Fault Refusal → Prop
  | .next s, .next t => HostEq s t
  | .refused q, .refused r => q = r
  | _, _ => False

end Sys2Proof.Machine
end

