-- ==== Sys2Proof/WellFormed.lean ====
section
/-!
DEFINITION. When an operation is legal for the capacities of a block (30_encoding.md R72, R78, R79): a count above its
capacity makes a descriptor that matches a row of the table illegal. Every other operand value is legal.
-/

namespace Sys2Proof

/-- `k <= MAX_ARGS` for FRAME and `n <= MAX_GROUPS` for DECODE; CRC8 has no count (R72). -/
def Instr.wellFormed (c : Capacity) : Instr → Bool
  | .crc8 _ => true
  | .frame k _ => decide (k.toNat ≤ c.maxArgs)
  | .decode n _ => decide (n.toNat ≤ c.maxGroups)

end Sys2Proof
end

