-- ==== Sys2Proof/Certificates/Slice0/Obligations.lean ====
section
/-!
DEFINITION. The statements for the provers. Each docstring names the rules of spec/ it formalises.
-/

open Sys2Proof Sys2Proof.Machine

/-! ## Encodings -/

/-- Encoding then decoding gives the operation back, at every operand value (30_encoding.md R71, R79). -/
def Obligations.DecodeOfEncode : Prop := ∀ i : Instr, decodeDesc (encodeDesc i) = .ok i

/-- A descriptor that decodes is the encoding of what it decodes to: each operation has one descriptor. -/
def Obligations.EncodeOfDecode : Prop := ∀ (d : Reg) (i : Instr), decodeDesc d = .ok i → encodeDesc i = d

/-- The opcode map's match and mask columns (R79) say which descriptors decode to which operation. -/
def Obligations.OpcodeMapMatchMask : Prop := ∀ d : Reg,
  ((∃ w, decodeDesc d = .ok (.crc8 w)) ↔ d &&& 0xFFFF0000#32 = 0x00000000#32) ∧
  ((∃ k cmd, decodeDesc d = .ok (.frame k cmd)) ↔ d &&& 0xFF000000#32 = 0x40000000#32) ∧
  ((∃ n len, decodeDesc d = .ok (.decode n len)) ↔ d &&& 0xFF000000#32 = 0x80000000#32)

/-- Operand assembly (R71, R72): VALUE is the low 16 bits and COUNT the 8 bits above, unsigned. -/
def Obligations.OperandAssembly : Prop := ∀ d : Reg,
  (∀ w, decodeDesc d = .ok (.crc8 w) → w.toNat = d.toNat % 65536) ∧
  (∀ k cmd, decodeDesc d = .ok (.frame k cmd) → k.toNat = d.toNat / 65536 % 256 ∧ cmd.toNat = d.toNat % 65536) ∧
  (∀ n len, decodeDesc d = .ok (.decode n len) → n.toNat = d.toNat / 65536 % 256 ∧ len.toNat = d.toNat % 65536)

/-- A few descriptors of 95_test_vectors.md decode to the operations they are listed for. -/
def Obligations.TableWordsDecode : Prop :=
  decodeTableWord 32 0x0000BEEF = some (.crc8 0xBEEF) ∧
  decodeTableWord 32 0x40010010 = some (.frame 1 0x0010) ∧
  decodeTableWord 32 0x8014003C = some (.decode 20 60) ∧
  decodeTableWord 32 0x00010000 = none ∧ decodeTableWord 32 0xC0000000 = none

/-- Every descriptor R78 rejects completes with ILLEGAL_REQUEST and the cause of the first failing check, in R78's order; the
clauses exclude one another and are the rows of R79's table of illegal descriptors. -/
def Obligations.IllegalDescriptorsComplete : Prop := ∀ s : State, s.EngineReady →
  ∀ op rsv count, op = s.req.extractLsb' 30 2 → rsv = s.req.extractLsb' 24 6 → count = s.req.extractLsb' 16 8 →
  (op = 3#2 → ∃ t, step s = .next t ∧ IllegalCommitted s.popTurn t op .reservedOp) ∧
  (op ≠ 3#2 → rsv ≠ 0#6 → ∃ t, step s = .next t ∧ IllegalCommitted s.popTurn t op .reservedBits) ∧
  (op = 0#2 → rsv = 0#6 → count ≠ 0#8 → ∃ t, step s = .next t ∧ IllegalCommitted s.popTurn t op .reservedBits) ∧
  (op = 1#2 → rsv = 0#6 → s.caps.maxArgs < count.toNat →
    ∃ t, step s = .next t ∧ IllegalCommitted s.popTurn t op .argsOverCapacity) ∧
  (op = 2#2 → rsv = 0#6 → s.caps.maxGroups < count.toNat →
    ∃ t, step s = .next t ∧ IllegalCommitted s.popTurn t op .groupsOverCapacity)

/-- An operation whose count is above its capacity completes with ILLEGAL_REQUEST and its capacity cause, whatever the buffers
hold (R78, 60_exceptions.md R172). -/
def Obligations.IllFormedOperationsIllegal : Prop := ∀ (i : Instr) (s : State), i.wellFormed s.caps = false →
  ∃ t, exec i s = .next t ∧
    ((∃ k cmd, i = .frame k cmd ∧ IllegalCommitted s t 1 .argsOverCapacity) ∨
     (∃ n len, i = .decode n len ∧ IllegalCommitted s t 2 .groupsOverCapacity))

/-! ## The checksum -/

/-- One bit step, on numbers, as R100 writes it. -/
def Obligations.BitStepShiftsAndXors : Prop := ∀ acc : Byte,
  (crc8Bit acc).toNat =
    if acc.getLsbD 7 then ((acc.toNat <<< 1) ^^^ 0x31) % 256 else (acc.toNat <<< 1) % 256

/-- The byte table of R106 is eight bit steps, gives the byte step and the word checksum, and is a permutation. -/
def Obligations.ByteTableGivesChecksum : Prop :=
  (∀ x : Byte, crcTableAt x = crc8Bits 8 x) ∧
  (∀ acc b : Byte, crc8Byte acc b = crcTableAt (acc ^^^ b)) ∧
  (∀ b0 b1 : Byte, crc8Word b0 b1 = crcTableAt (crcTableAt (0xFF#8 ^^^ b0) ^^^ b1)) ∧
  Function.Bijective crcTableAt

/-- The shift-and-XOR engine computes the remainder by the generator polynomial x^8 + x^5 + x^4 + 1 of 00_scope.md R2, with
the seed 0xFF on the first byte and nothing reflected or complemented. -/
def Obligations.ChecksumIsPolynomialRemainder : Prop := ∀ b0 b1 : Byte, crc8Word b0 b1 = crc8Poly b0 b1

/-- The checksum is affine over XOR (R107). -/
def Obligations.ChecksumIsAffine : Prop := ∀ x y : Word,
  crc8OfWord (x ^^^ y) = crc8OfWord x ^^^ crc8OfWord y ^^^ crc8OfWord 0 ∧ crc8OfWord 0 = 0x81#8

/-- The checksum is a bijection in each byte with the other fixed (R107). -/
def Obligations.ChecksumBijectiveInEachByte : Prop :=
  (∀ b0 : Byte, Function.Bijective fun b1 => crc8Word b0 b1) ∧
  (∀ b1 : Byte, Function.Bijective fun b0 => crc8Word b0 b1)

/-- Every checksum value is reached by exactly 256 words (R107). -/
def Obligations.ChecksumReachedBy256Words : Prop := ∀ c : Byte,
  ((Finset.univ : Finset (Fin 256 × Fin 256)).filter
    fun p => crc8Word (BitVec.ofFin p.1) (BitVec.ofFin p.2) = c).card = 256

/-- CRC8 completes with the checksum of its word, in every state and for every word (40_crc8.md R104). -/
def Obligations.Crc8Completes : Prop := ∀ (w : Word) (s : State), ∃ t, exec (.crc8 w) s = .next t ∧
  t.status = { busy := false, resultKind := some .crc, errKind := none, illegalCause := none, lastOp := 0 } ∧
  t.crcOut = (crc8Word (w.extractLsb' 8 8) (w.extractLsb' 0 8)).setWidth 32 ∧
  t.outLen = 0 ∧ t.errCsum = 0 ∧ t.errLen = 0 ∧ t.mem = s.mem ∧ CompletionFrame s t

/-! ## FRAME -/

/-- The frame layout of R73, byte by byte, and its length. -/
def Obligations.FrameLayout : Prop := ∀ (cmd : Word) (a : List Word),
  (buildFrame cmd a).length = 2 + 3 * a.length ∧
  (buildFrame cmd a)[0]? = some (cmd.extractLsb' 8 8) ∧
  (buildFrame cmd a)[1]? = some (cmd.extractLsb' 0 8) ∧
  ∀ (i : Nat) (w : Word), a[i]? = some w →
    (buildFrame cmd a)[2 + 3 * i]? = some (w.extractLsb' 8 8) ∧
    (buildFrame cmd a)[3 + 3 * i]? = some (w.extractLsb' 0 8) ∧
    (buildFrame cmd a)[4 + 3 * i]? = some (crc8Word (w.extractLsb' 8 8) (w.extractLsb' 0 8))

/-- A legal FRAME whose argument words were written completes: FRAME_OUT receives the frame, entries above it keep what they
held, and the rest is the frame of a completion (41_frame.md R121). -/
def Obligations.FrameCompletes : Prop := ∀ (s : State) (k : Byte) (cmd : Word) (a : Nat → Word),
  k.toNat ≤ s.caps.maxArgs → (∀ i < k.toNat, Buffer.get s.mem.argIn i = some (a i)) →
  ∃ t, exec (.frame k cmd) s = .next t ∧
    t.status = { busy := false, resultKind := some .frame, errKind := none, illegalCause := none, lastOp := 1 } ∧
    t.outLen.toNat = 2 + 3 * k.toNat ∧ t.crcOut = 0 ∧ t.errCsum = 0 ∧ t.errLen = 0 ∧
    Buffer.get t.mem.frameOut 0 = some (cmd.extractLsb' 8 8) ∧
    Buffer.get t.mem.frameOut 1 = some (cmd.extractLsb' 0 8) ∧
    (∀ i < k.toNat,
      Buffer.get t.mem.frameOut (2 + 3 * i) = some ((a i).extractLsb' 8 8) ∧
      Buffer.get t.mem.frameOut (3 + 3 * i) = some ((a i).extractLsb' 0 8) ∧
      Buffer.get t.mem.frameOut (4 + 3 * i) = some (crc8Word ((a i).extractLsb' 8 8) ((a i).extractLsb' 0 8))) ∧
    (∀ j, 2 + 3 * k.toNat ≤ j → Buffer.get t.mem.frameOut j = Buffer.get s.mem.frameOut j) ∧
    t.mem.wordsOut = s.mem.wordsOut ∧ CompletionFrame s t

/-! ## DECODE -/

/-- A legal DECODE of the right length whose groups are all valid completes with the data words, unmodified and in order
(42_decode.md R141, R145). -/
def Obligations.DecodeCompletes : Prop := ∀ (s : State) (n : Byte) (len : Word) (raw : Nat → Byte),
  n.toNat ≤ s.caps.maxGroups → len.toNat = 3 * n.toNat →
  (∀ j < len.toNat, Buffer.get s.mem.rawIn j = some (raw j)) →
  (∀ g < n.toNat, crc8Word (raw (3 * g)) (raw (3 * g + 1)) = raw (3 * g + 2)) →
  ∃ t, exec (.decode n len) s = .next t ∧
    t.status = { busy := false, resultKind := some .words, errKind := none, illegalCause := none, lastOp := 2 } ∧
    t.outLen.toNat = n.toNat ∧ t.crcOut = 0 ∧ t.errCsum = 0 ∧ t.errLen = 0 ∧
    (∀ g < n.toNat, Buffer.get t.mem.wordsOut g = some (raw (3 * g) ++ raw (3 * g + 1) : BitVec 16)) ∧
    (∀ g, n.toNat ≤ g → Buffer.get t.mem.wordsOut g = Buffer.get s.mem.wordsOut g) ∧
    t.mem.frameOut = s.mem.frameOut ∧ CompletionFrame s t

/-- A legal DECODE of the wrong length completes with MALFORMED_RESPONSE whatever RAW_IN holds (R142). -/
def Obligations.LengthCheckComesFirst : Prop := ∀ (s : State) (n : Byte) (len : Word),
  n.toNat ≤ s.caps.maxGroups → len.toNat ≠ 3 * n.toNat →
  ∃ t, exec (.decode n len) s = .next t ∧
    t.status =
      { busy := false, resultKind := some .error, errKind := some .malformedResponse, illegalCause := none, lastOp := 2 } ∧
    (t.errLen.extractLsb' 0 16).toNat = 3 * n.toNat ∧ t.errLen.extractLsb' 16 16 = len ∧
    t.crcOut = 0 ∧ t.outLen = 0 ∧ t.errCsum = 0 ∧ t.mem = s.mem ∧ CompletionFrame s t

/-- The lowest-indexed invalid group ends a DECODE with CHECKSUM_MISMATCH and its record; later groups do not matter and no
buffer is written (R143). -/
def Obligations.FirstInvalidGroupReported : Prop :=
  ∀ (s : State) (n : Byte) (len : Word) (raw : Nat → Byte) (g : Nat),
  n.toNat ≤ s.caps.maxGroups → len.toNat = 3 * n.toNat →
  (∀ j < len.toNat, Buffer.get s.mem.rawIn j = some (raw j)) → g < n.toNat →
  (∀ h < g, crc8Word (raw (3 * h)) (raw (3 * h + 1)) = raw (3 * h + 2)) →
  crc8Word (raw (3 * g)) (raw (3 * g + 1)) ≠ raw (3 * g + 2) →
  ∃ t, exec (.decode n len) s = .next t ∧
    t.status =
      { busy := false, resultKind := some .error, errKind := some .checksumMismatch, illegalCause := none, lastOp := 2 } ∧
    (t.errCsum.extractLsb' 0 8).toNat = g ∧
    t.errCsum.extractLsb' 8 8 = crc8Word (raw (3 * g)) (raw (3 * g + 1)) ∧
    t.errCsum.extractLsb' 16 8 = raw (3 * g + 2) ∧ t.errCsum.extractLsb' 24 8 = 0#8 ∧
    t.crcOut = 0 ∧ t.outLen = 0 ∧ t.errLen = 0 ∧ t.mem = s.mem ∧ CompletionFrame s t

/-- The argument groups of a built frame are a valid response that decodes to the argument words (41_frame.md R124). -/
def Obligations.FramerAgreesWithDecoder : Prop := ∀ (cmd : Word) (a : List Word),
  decodeGroups ((buildFrame cmd a).drop 2) a.length = .ok a

/-- The same round trip through the machine: FRAME's output bytes from index 2 on, moved to RAW_IN, DECODE to the argument
words FRAME took from ARG_IN. -/
def Obligations.MachineRoundTrip : Prop := ∀ (s t u : State) (k : Byte) (cmd len : Word),
  exec (.frame k cmd) s = .next t → t.status.resultKind = some .frame →
  k.toNat ≤ u.caps.maxGroups → len.toNat = 3 * k.toNat →
  (∀ j < len.toNat, Buffer.get u.mem.rawIn j = Buffer.get t.mem.frameOut (2 + j)) →
  ∃ v, exec (.decode k len) u = .next v ∧ v.status.resultKind = some .words ∧ v.outLen.toNat = k.toNat ∧
    ∀ i < k.toNat, Buffer.get v.mem.wordsOut i = Buffer.get s.mem.argIn i

/-- Take a valid response; leave the groups below `h` as they are and change exactly one byte of group `h` (whatever becomes of
the later groups): DECODE reports CHECKSUM_MISMATCH with GROUP = h (R144). -/
def Obligations.CorruptedGroupIndexReported : Prop :=
  ∀ (s : State) (n : Byte) (len : Word) (good raw : Nat → Byte) (h p : Nat),
  n.toNat ≤ s.caps.maxGroups → len.toNat = 3 * n.toNat →
  (∀ g < n.toNat, crc8Word (good (3 * g)) (good (3 * g + 1)) = good (3 * g + 2)) →
  h < n.toNat → p < 3 → (∀ j < 3 * h, raw j = good j) →
  raw (3 * h + p) ≠ good (3 * h + p) → (∀ q < 3, q ≠ p → raw (3 * h + q) = good (3 * h + q)) →
  (∀ j < len.toNat, Buffer.get s.mem.rawIn j = some (raw j)) →
  ∃ t, exec (.decode n len) s = .next t ∧ t.status.resultKind = some .error ∧
    t.status.errKind = some .checksumMismatch ∧ (t.errCsum.extractLsb' 0 8).toNat = h ∧ t.mem = s.mem

/-- The corner cases of DECODE in the table of R146, in its order. -/
def Obligations.DecodeCornerCases : Prop := ∀ s : State,
  (∃ t, exec (.decode 0 0) s = .next t ∧ t.status.resultKind = some .words ∧ t.outLen = 0 ∧ t.mem = s.mem) ∧
  (∀ len : Word, len ≠ 0 → ∃ t, exec (.decode 0 len) s = .next t ∧ t.status.errKind = some .malformedResponse ∧
    t.errLen.extractLsb' 0 16 = 0#16 ∧ t.errLen.extractLsb' 16 16 = len) ∧
  (∀ (n : Byte) (len : Word), n.toNat ≤ s.caps.maxGroups → len.toNat % 3 ≠ 0 →
    ∃ t, exec (.decode n len) s = .next t ∧ t.status.errKind = some .malformedResponse) ∧
  (∀ (n : Byte) (len : Word), n.toNat ≤ s.caps.maxGroups → s.caps.maxRaw < len.toNat →
    ∃ t, exec (.decode n len) s = .next t ∧ t.status.errKind = some .malformedResponse ∧
      t.errLen.extractLsb' 16 16 = len ∧ t.mem = s.mem) ∧
  decodeGroups [0xFF#8, 0x00#8, 0x00#8] 1 = .ok [0xFF00#16] ∧
  decodeGroups [0x00#8, 0x00#8, 0x00#8] 1 = .error (.checksumMismatch 0 0x81#8 0x00#8) ∧
  (∀ b0 b1 c b : Byte, decodeGroups [b0, b1, c] 1 = .ok [joinBytes b0 b1] →
    (b ≠ b0 → decodeGroups [b, b1, c] 1 = .error (.checksumMismatch 0 (crc8Word b b1) c)) ∧
    (b ≠ b1 → decodeGroups [b0, b, c] 1 = .error (.checksumMismatch 0 (crc8Word b0 b) c))) ∧
  (∀ (n : Byte) (len : Word), n.toNat = s.caps.maxGroups → len.toNat = s.caps.maxRaw →
    ((∀ j < s.caps.maxRaw, Buffer.written s.mem.rawIn j = true) →
      ∃ t, exec (.decode n len) s = .next t ∧ t.status.illegalCause = none ∧
        t.status.errKind ≠ some .malformedResponse) ∧
    ((∃ j < s.caps.maxRaw, Buffer.written s.mem.rawIn j = false) →
      exec (.decode n len) s = .refused .unwrittenInputRead))

/-! ## What an operation reads -/

/-- Reads of input entries (20_memory.md R53): an entry the host wrote reads as written last; a read of an entry never written
since reset, by the host or by a completion, is refused. -/
def Obligations.UnwrittenInputReadsRefused : Prop :=
  (∀ (s t : State) (i : Nat) (w : Word), hostAccess (.argWrite i w) s = .next t →
    hostAccess (.argRead i) t = .next { t with hostReads := .word w :: t.hostReads } ∧
    ∀ j ≠ i, Buffer.get t.mem.argIn j = Buffer.get s.mem.argIn j) ∧
  (∀ (s t : State) (i : Nat) (b : Byte), hostAccess (.rawWrite i b) s = .next t →
    hostAccess (.rawRead i) t = .next { t with hostReads := .byte b :: t.hostReads } ∧
    ∀ j ≠ i, Buffer.get t.mem.rawIn j = Buffer.get s.mem.rawIn j) ∧
  (∀ (s : State) (i : Nat), i < s.caps.maxArgs → Buffer.written s.mem.argIn i = false →
    hostAccess (.argRead i) s = .refused .unwrittenInputRead) ∧
  (∀ (s : State) (j : Nat), j < s.caps.maxRaw → Buffer.written s.mem.rawIn j = false →
    hostAccess (.rawRead j) s = .refused .unwrittenInputRead) ∧
  (∀ (s : State) (k : Byte) (cmd : Word), k.toNat ≤ s.caps.maxArgs →
    (∃ i < k.toNat, Buffer.written s.mem.argIn i = false) →
    exec (.frame k cmd) s = .refused .unwrittenInputRead) ∧
  (∀ (s : State) (n : Byte) (len : Word), n.toNat ≤ s.caps.maxGroups → len.toNat = 3 * n.toNat →
    (∃ j < len.toNat, Buffer.written s.mem.rawIn j = false) →
    exec (.decode n len) s = .refused .unwrittenInputRead)

/-- An operation completes exactly when every input entry it reads was written (R51, R53, 70_reset_and_hazards.md R202):
CRC8, FRAME with k = 0 and DECODE with L != 3n or n = 0 read nothing and complete in every state. -/
def Obligations.CompletesIffInputsWritten : Prop := ∀ (i : Instr) (s : State),
  (∃ t, exec i s = .next t) ↔ s.InputsWritten i

/-- A completion's STATUS and result registers are a function of REQ, ARG_IN, RAW_IN and the parameters alone (10_state.md
R35): nothing of an earlier operation, result or error stays (60_exceptions.md R177). -/
def Obligations.CompletionIsPureFunction : Prop := ∀ s s' t : State,
  s.EngineReady → s'.EngineReady → s.req = s'.req → s.caps = s'.caps →
  s.mem.argIn = s'.mem.argIn → s.mem.rawIn = s'.mem.rawIn → step s = .next t →
  ∃ t', step s' = .next t' ∧ t'.status = t.status ∧ t'.crcOut = t.crcOut ∧ t'.outLen = t.outLen ∧
    t'.errCsum = t.errCsum ∧ t'.errLen = t.errLen

/-! ## The operation protocol -/

/-- The engine's step performs the operation REQ decodes to, and `withFetchWord` places a descriptor so that the very next step
performs it. -/
def Obligations.StepRunsDecodedOperation : Prop :=
  (∀ (s : State) (i : Instr), s.EngineReady → decodeDesc s.req = .ok i → step s = exec i s.popTurn) ∧
  (∀ (s : State) (w : Nat) (i : Instr), decodeTableWord 32 w = some i →
    step (s.withFetchWord 32 w) = exec i (issue (BitVec.ofNat 32 w) s))

/-- The host's turn performs its next access; WAIT stays while BUSY = 1 (R63, R81). -/
def Obligations.HostTurnPerformsAccess : Prop := ∀ (s : State) (a : HostAccess) (rest : List HostAccess),
  s.agent = .host → s.hostQueue = a :: rest →
  step s = hostAccess a { s with
    turns := s.turns.tail
    hostQueue := if a = .wait ∧ s.status.busy = true then a :: rest else rest }

/-- The issue (R34): DESC and REQ take the written value, BUSY is set, and nothing else of the block changes. -/
def Obligations.IssueSetsBusyOnly : Prop := ∀ (s : State) (v : Reg) (rest : List HostAccess),
  s.agent = .host → s.hostQueue = .writeReg 0 v :: rest → s.status.busy = false →
  step s = .next { s with
    desc := v
    req := v
    status := { s.status with busy := true }
    hostQueue := rest
    turns := s.turns.tail }

/-- The engine's turn (R35): nothing happens while BUSY = 0; while BUSY = 1 it completes, clearing BUSY and recording the `OP`
field of REQ and a result kind, or it is refused for an unwritten input entry. -/
def Obligations.EngineCompletesExactlyWhenBusy : Prop := ∀ s : State, s.agent = .engine →
  (s.status.busy = false → step s = .next { s with turns := s.turns.tail }) ∧
  (s.status.busy = true →
    (∃ t, step s = .next t ∧ t.status.busy = false ∧ t.status.lastOp = s.req.extractLsb' 30 2 ∧
      t.status.resultKind ≠ none ∧ CompletionFrame s.popTurn t) ∨
    step s = .refused .unwrittenInputRead)

/-- Completion is guaranteed (R216): after any finite number of host turns the engine's step comes, and it clears BUSY. -/
def Obligations.IssuedOperationCompletes : Prop := ∀ (k : Nat) (s t : State),
  s.status.busy = true → s.turns = List.replicate k .host →
  StepsTo (k + 1) s t → t.status.busy = false ∧ t.desc = s.desc

/-- WAIT ends (R81, R216): with the engine free to move, the poll after the completion reads BUSY = 0 and the program goes on. -/
def Obligations.WaitEnds : Prop := ∀ (s t : State) (rest : List HostAccess),
  s.hostQueue = .wait :: rest → s.turns = [] → s.status.busy = true → step s = .next t →
  ∃ u, step t = .next u ∧ u.hostQueue = rest ∧ u.hostReads = .reg t.status.word :: s.hostReads ∧
    t.status.word.getLsbD 0 = false

/-! ## Host accesses and hazards -/

/-- A DESC write while BUSY = 1 is refused (R210). -/
def Obligations.DescWriteWhileBusyRefused : Prop := ∀ (s : State) (v : Reg), s.status.busy = true →
  hostAccess (.writeReg 0 v) s = .refused .descWriteWhileBusy

/-- An input write while BUSY = 1 is refused; while BUSY = 0 it sets its entry and nothing else of the block (R211, R50). -/
def Obligations.InputWritesOnlyWhileIdle : Prop :=
  (∀ (s : State) (i : Nat) (w : Word), i < s.caps.maxArgs →
    (s.status.busy = true → hostAccess (.argWrite i w) s = .refused .inputWriteWhileBusy) ∧
    (s.status.busy = false → ∃ m, hostAccess (.argWrite i w) s = .next { s with mem := { s.mem with argIn := m } } ∧
      Buffer.get m i = some w ∧ ∀ j ≠ i, Buffer.get m j = Buffer.get s.mem.argIn j)) ∧
  (∀ (s : State) (i : Nat) (b : Byte), i < s.caps.maxRaw →
    (s.status.busy = true → hostAccess (.rawWrite i b) s = .refused .inputWriteWhileBusy) ∧
    (s.status.busy = false → ∃ m, hostAccess (.rawWrite i b) s = .next { s with mem := { s.mem with rawIn := m } } ∧
      Buffer.get m i = some b ∧ ∀ j ≠ i, Buffer.get m j = Buffer.get s.mem.rawIn j))

/-- While BUSY = 1 the result registers and output buffers are not read; STATUS, DESC and the written input entries are (R212). -/
def Obligations.ReadsWhileBusy : Prop := ∀ s : State, s.status.busy = true →
  (∀ n, 2 ≤ n → n ≤ 5 → hostAccess (.readReg n) s = .refused .resultReadWhileBusy) ∧
  (∀ j < s.caps.maxFrame, hostAccess (.frameRead j) s = .refused .resultReadWhileBusy) ∧
  (∀ g < s.caps.maxGroups, hostAccess (.wordsRead g) s = .refused .resultReadWhileBusy) ∧
  hostAccess (.readReg 0) s = .next { s with hostReads := .reg s.desc :: s.hostReads } ∧
  hostAccess (.readReg 1) s = .next { s with hostReads := .reg s.status.word :: s.hostReads } ∧
  (∀ i < s.caps.maxArgs, ∀ w, Buffer.get s.mem.argIn i = some w →
    hostAccess (.argRead i) s = .next { s with hostReads := .word w :: s.hostReads }) ∧
  (∀ j < s.caps.maxRaw, ∀ b, Buffer.get s.mem.rawIn j = some b →
    hostAccess (.rawRead j) s = .next { s with hostReads := .byte b :: s.hostReads })

/-- FrameRead and WordsRead return an entry exactly in the defined case of R52 and are refused otherwise, in every state that
meets the invariants. -/
def Obligations.OutputReadsDefinedExactly : Prop := ∀ s : State, s.Inv → s.status.busy = false →
  (∀ j < s.caps.maxFrame,
    (s.status.resultKind = some .frame → j < s.outLen.toNat → ∃ b, Buffer.get s.mem.frameOut j = some b ∧
      hostAccess (.frameRead j) s = .next { s with hostReads := .byte b :: s.hostReads }) ∧
    (¬ (s.status.resultKind = some .frame ∧ j < s.outLen.toNat) →
      hostAccess (.frameRead j) s = .refused .outputReadUndefined)) ∧
  (∀ g < s.caps.maxGroups,
    (s.status.resultKind = some .words → g < s.outLen.toNat → ∃ w, Buffer.get s.mem.wordsOut g = some w ∧
      hostAccess (.wordsRead g) s = .next { s with hostReads := .word w :: s.hostReads }) ∧
    (¬ (s.status.resultKind = some .words ∧ g < s.outLen.toNat) →
      hostAccess (.wordsRead g) s = .refused .outputReadUndefined))

/-- A port used with an index outside its range is refused (R54, ranges of R50). That the refusal is named IndexOutOfRange while
BUSY = 1 too, where R211 or R212 refuses the access as well, is the model's choice (DESIGN CHOICE, log 10). -/
def Obligations.IndexOutOfRangeRefused : Prop := ∀ (s : State) (i : Nat),
  (s.caps.maxArgs ≤ i → (∀ w, hostAccess (.argWrite i w) s = .refused .indexOutOfRange) ∧
    hostAccess (.argRead i) s = .refused .indexOutOfRange) ∧
  (3 * s.caps.maxGroups ≤ i → (∀ b, hostAccess (.rawWrite i b) s = .refused .indexOutOfRange) ∧
    hostAccess (.rawRead i) s = .refused .indexOutOfRange) ∧
  (2 + 3 * s.caps.maxArgs ≤ i → hostAccess (.frameRead i) s = .refused .indexOutOfRange) ∧
  (s.caps.maxGroups ≤ i → hostAccess (.wordsRead i) s = .refused .indexOutOfRange)

/-- A write to a read-only or reserved register number has no effect, busy or not (R23, R33). -/
def Obligations.ReadOnlyRegisterWritesIgnored : Prop := ∀ (s : State) (n : Nat) (v : Reg), n ≠ 0 →
  hostAccess (.writeReg n v) s = .next s

/-- Register reads while BUSY = 0 (R23 to R29, R33): a read returns the register with its reserved bits 0, and a reserved
number returns 0. -/
def Obligations.RegisterReadsReturnFields : Prop := ∀ (s : State) (n : Nat), s.status.busy = false →
  ∃ v : Reg, hostAccess (.readReg n) s = .next { s with hostReads := .reg v :: s.hostReads } ∧
    (n = 0 → v = s.desc) ∧
    (n = 1 → v = s.status.word ∧ v.extractLsb' 14 18 = 0#18) ∧
    (n = 2 → v.extractLsb' 0 8 = s.crcOut.extractLsb' 0 8 ∧ v.extractLsb' 8 24 = 0#24) ∧
    (n = 3 → v.extractLsb' 0 16 = s.outLen.extractLsb' 0 16 ∧ v.extractLsb' 16 16 = 0#16) ∧
    (n = 4 → v.extractLsb' 0 24 = s.errCsum.extractLsb' 0 24 ∧ v.extractLsb' 24 8 = 0#8) ∧
    (n = 5 → v = s.errLen) ∧
    (6 ≤ n → v = 0)

/-- The fields of the STATUS word and their codes (R25). -/
def Obligations.StatusWordLayout : Prop := ∀ st : Status,
  st.word.getLsbD 0 = st.busy ∧
  (st.word.extractLsb' 1 3).toNat = (match st.resultKind with
    | none => 0 | some .crc => 1 | some .frame => 2 | some .words => 3 | some .error => 4) ∧
  (st.word.extractLsb' 4 4).toNat = (match st.errKind with
    | none => 0 | some .checksumMismatch => 1 | some .malformedResponse => 2 | some .illegalRequest => 3) ∧
  (st.word.extractLsb' 8 4).toNat = (match st.illegalCause with
    | none => 0 | some .reservedOp => 1 | some .reservedBits => 2 | some .argsOverCapacity => 3
    | some .groupsOverCapacity => 4) ∧
  st.word.extractLsb' 12 2 = st.lastOp ∧ st.word.extractLsb' 14 18 = 0#18

/-- No read has a side effect (R61): it changes only what the host holds. -/
def Obligations.ReadsHaveNoSideEffect : Prop := ∀ (s t : State) (a : HostAccess), a.isRead = true →
  hostAccess a s = .next t → ∃ v, t = { s with hostReads := v :: s.hostReads }

/-! ## Reset -/

/-- A reset step is enabled in every state, an operation in flight or not, and leaves the reset values of R37 with the ghost mark
untouched (R176, R200, R201). That it leaves the parameters and the host's accesses, turns and values read as they are is the
model's reading (DEDUCED, log 11). -/
def Obligations.ResetInEveryState : Prop := ∀ (s : State) (ts : List Turn), s.turns = .reset :: ts →
  ∃ t, step s = .next t ∧ ResetValues t ∧ t.refused = s.refused ∧ t.caps = s.caps ∧ t.turns = ts ∧
    t.hostQueue = s.hostQueue ∧ t.hostReads = s.hostReads

/-- Reset before a completion and reset after it leave the same state (R201), whatever the model holds in REQ, ACC and the
position, which R37 leaves unspecified (log 6), and in its counter of free values (log 7). That the host's accesses, turns and
values read are the same in both is the model's reading that a reset does not act on the host (DEDUCED, log 11). -/
def Obligations.ResetAbandonsOperation : Prop := ∀ (s u : State) (i : Instr) (req : Reg) (acc : Byte) (pos fresh : Nat),
  exec i s = .next u →
  { resetStep u with req := req, acc := acc, pos := pos, fresh := fresh } =
    { resetStep s with req := req, acc := acc, pos := pos, fresh := fresh }

/-- The values R37 gives the state after reset, whatever the parameters, with the mark clear; output reads are refused there,
and a later reset keeps the mark. -/
def Obligations.ResetStateValues : Prop :=
  ResetValues State.reset ∧ State.reset.refused = false ∧ State.reset.caps.Ok ∧
  (∀ j t, hostAccess (.frameRead j) State.reset ≠ .next t) ∧ (∀ g t, hostAccess (.wordsRead g) State.reset ≠ .next t) ∧
  ∀ s : State, (resetStep s).refused = s.refused

/-! ## Rules of the whole machine -/

/-- Every step keeps the invariants of R36 and those that keep defined reads defined. -/
def Obligations.InvariantKept : Prop := ∀ s t : State, s.Inv → step s = .next t → t.Inv

/-- The invariants hold after reset, for every parameter value R7 allows. -/
def Obligations.InvariantAtReset : Prop := (∀ c : Capacity, c.Ok → (State.resetWith c).Inv) ∧ State.reset.Inv

/-- The host's turn never writes an output buffer, a result register or a STATUS field but BUSY, which it can only set, and
only by an issue (R25, R34, R50). -/
def Obligations.HostNeverWritesResults : Prop := ∀ s t : State, s.agent = .host → step s = .next t →
  t.mem.frameOut = s.mem.frameOut ∧ t.mem.wordsOut = s.mem.wordsOut ∧ t.crcOut = s.crcOut ∧ t.outLen = s.outLen ∧
  t.errCsum = s.errCsum ∧ t.errLen = s.errLen ∧ t.refused = s.refused ∧ t.caps = s.caps ∧
  (t.status = s.status ∨
    s.status.busy = false ∧ t.status = { s.status with busy := true } ∧ ∃ v rest, s.hostQueue = .writeReg 0 v :: rest)

/-- The engine's turn never writes an input buffer, DESC, the parameters or anything of the host's (R50, R174). -/
def Obligations.EngineNeverWritesInputs : Prop := ∀ s t : State, s.agent = .engine → step s = .next t →
  CompletionFrame s.popTurn t

/-- The refusal reasons are the closed list of R176, each only in its own case: the engine's only where REQ decodes to an
operation one of whose input entries (R51) was never written, and a read of an output entry while BUSY = 0 only outside the
defined case of R52. The last holds in every state that meets the invariants (log 17). -/
def Obligations.RefusalsAreTheClosedList : Prop := ∀ (s : State) (r : Refusal), step s = .refused r →
  (r = .unwrittenInputRead ∧ s.EngineReady ∧ ∃ i, decodeDesc s.req = .ok i ∧ ¬ s.InputsWritten i) ∨
  (s.agent = .host ∧ ∃ a rest, s.hostQueue = a :: rest ∧
    ((r = .descWriteWhileBusy ∧ s.status.busy = true ∧ ∃ v, a = .writeReg 0 v) ∨
     (r = .inputWriteWhileBusy ∧ s.status.busy = true ∧ ((∃ i w, a = .argWrite i w) ∨ ∃ j b, a = .rawWrite j b)) ∨
     (r = .resultReadWhileBusy ∧ s.status.busy = true ∧
       ((∃ n, a = .readReg n ∧ 2 ≤ n ∧ n ≤ 5) ∨ (∃ j, a = .frameRead j) ∨ ∃ g, a = .wordsRead g)) ∨
     (r = .outputReadUndefined ∧ s.status.busy = false ∧
       ((∃ j, a = .frameRead j ∧ (s.Inv → ¬ (s.status.resultKind = some .frame ∧ j < s.outLen.toNat))) ∨
        ∃ g, a = .wordsRead g ∧ (s.Inv → ¬ (s.status.resultKind = some .words ∧ g < s.outLen.toNat)))) ∨
     (r = .unwrittenInputRead ∧
       ((∃ i, a = .argRead i ∧ Buffer.written s.mem.argIn i = false) ∨
        ∃ j, a = .rawRead j ∧ Buffer.written s.mem.rawIn j = false)) ∨
     (r = .indexOutOfRange ∧
       ((∃ i, s.caps.maxArgs ≤ i ∧ (a = .argRead i ∨ ∃ w, a = .argWrite i w)) ∨
        (∃ j, s.caps.maxRaw ≤ j ∧ (a = .rawRead j ∨ ∃ b, a = .rawWrite j b)) ∨
        (∃ j, s.caps.maxFrame ≤ j ∧ a = .frameRead j) ∨ ∃ g, s.caps.maxGroups ≤ g ∧ a = .wordsRead g))))

/-- The ghost mark (R32, R176): every refused step sets it, nothing clears it, and no other step changes it. -/
def Obligations.RefusedMarkNeverCleared : Prop := ∀ s : State,
  (∀ r, step s = .refused r → (stepMarked s).refused = true) ∧
  (s.refused = true → (stepMarked s).refused = true) ∧
  (∀ t, step s = .next t → stepMarked s = t ∧ t.refused = s.refused)

/-- What the host cannot see, it cannot learn by any step (R31, R52, R213): blocks that differ only in ACC, the position, an
idle REQ, the counter of free values and unreadable output entries step alike. -/
def Obligations.HostSeesNoInternalState : Prop := ∀ s t : State, HostEq s t → OutcomeEq (step s) (step t)

/-! ## The host's statements -/

/-- The statements CRC8, FRAME and DECODE write the descriptors of their operations (R81, R71). -/
def Obligations.StatementsWriteDescriptors : Prop :=
  (∀ w : Word, Stmt.accesses (.crc8 w) = [.writeReg 0 (encodeDesc (.crc8 w))]) ∧
  (∀ (cmd : Word) (k : Byte), Stmt.accesses (.frame cmd k) = [.writeReg 0 (encodeDesc (.frame k cmd))]) ∧
  (∀ (n : Byte) (len : Word), Stmt.accesses (.decode n len) = [.writeReg 0 (encodeDesc (.decode n len))])

/-- The columns of the command table (R76) agree with the frame layout of R73 and the response layout of R75. -/
def Obligations.CommandTableConsistent : Prop := ∀ (c : SensorCommand) (l : OutputLayout),
  c.frameLength = 2 + 3 * c.argCount ∧ c.responseLength l = (c.responseGroups l).map (3 * ·)
end

