-- ==== Sys2Proof/Laws/Buffer.lean ====
section
/-!
SUPPORT. The laws of the buffers: a read after a write, the canonical form and the index range under every buffer operation,
and what MemRead and MemWrite do entry by entry. None of the read laws needs the canonical form.
-/

namespace Sys2Proof.Machine.Buffer

variable {w : Nat}

@[simp] theorem get_nil (i : Nat) : get ([] : Buffer w) i = none := rfl

theorem get_set (b : Buffer w) (i j : Nat) (v : BitVec w) :
    get (set b i v) j = if j = i then some v else get b j := by
  induction b with
  | nil => rfl
  | cons e rest ih =>
    obtain ⟨k, u⟩ := e
    simp only [set]
    split
    · rfl
    · split
      · subst i; simp only [get]; split <;> rfl
      · simp only [get, ih]; split <;> split <;> simp_all

@[simp] theorem get_set_self (b : Buffer w) (i : Nat) (v : BitVec w) : get (set b i v) i = some v := by
  simp [get_set]

theorem get_set_of_ne (b : Buffer w) {i j : Nat} (v : BitVec w) (h : j ≠ i) : get (set b i v) j = get b j := by
  simp [get_set, h]

/-- An entry outside the written ones keeps what it held; a written one holds its value. -/
theorem get_memWrite (vs : List (BitVec w)) : ∀ (b : Buffer w) (i j : Nat),
    get (memWrite b i vs) j = if i ≤ j ∧ j < i + vs.length then vs[j - i]? else get b j := by
  induction vs with
  | nil => intro b i j; simp [memWrite]
  | cons v vs ih =>
    intro b i j
    simp only [memWrite, ih, get_set, List.length_cons]
    by_cases h1 : i + 1 ≤ j
    · have h2 : j - i = j - (i + 1) + 1 := by omega
      have h3 : j ≠ i := by omega
      simp only [h1, h2, h3, true_and, List.getElem?_cons_succ, if_false]
      by_cases h4 : j < i + 1 + vs.length
      · rw [if_pos h4, if_pos (by omega)]
      · rw [if_neg h4, if_neg (by omega)]
    · rw [if_neg (by omega)]
      by_cases h2 : j = i
      · subst h2; simp
      · rw [if_neg h2, if_neg (by omega)]

/-- MemRead succeeds exactly where every entry it reads holds a value, and returns those values in order. -/
theorem memRead_eq_some (b : Buffer w) (n : Nat) : ∀ (i : Nat) (vs : List (BitVec w)),
    memRead b i n = some vs ↔ vs.length = n ∧ ∀ j < n, get b (i + j) = vs[j]? := by
  induction n with
  | zero => intro i vs; cases vs <;> simp [memRead]
  | succ n ih =>
    intro i vs
    constructor
    · intro h
      simp only [memRead] at h
      split at h
      case h_1 v us h1 h2 =>
        obtain rfl := Option.some.inj h
        obtain ⟨hl, hg⟩ := (ih _ _).1 h2
        refine ⟨by simp [hl], fun j hj => ?_⟩
        cases j with
        | zero => simpa using h1
        | succ j =>
          have := hg j (by omega)
          rw [show i + (j + 1) = i + 1 + j by omega, this, List.getElem?_cons_succ]
      case h_2 => cases h
    · rintro ⟨hl, hg⟩
      cases vs with
      | nil => simp at hl
      | cons v us =>
        have h0 : get b i = some v := by simpa using hg 0 (by omega)
        have h1 : memRead b (i + 1) n = some us := by
          refine (ih _ _).2 ⟨by simpa using hl, fun j hj => ?_⟩
          have := hg (j + 1) (by omega)
          rwa [show i + (j + 1) = i + 1 + j by omega, List.getElem?_cons_succ] at this
        simp [memRead, h0, h1]

/-- MemRead fails exactly where an entry it reads holds no value. -/
theorem memRead_eq_none (b : Buffer w) (n : Nat) : ∀ i : Nat,
    memRead b i n = none ↔ ∃ j < n, get b (i + j) = none := by
  induction n with
  | zero => intro i; simp [memRead]
  | succ n ih =>
    intro i
    have hs : (∃ j < n + 1, get b (i + j) = none) ↔ get b i = none ∨ ∃ j < n, get b (i + 1 + j) = none := by
      constructor
      · rintro ⟨j, hj, h⟩
        cases j with
        | zero => exact .inl h
        | succ j => exact .inr ⟨j, by omega, by rwa [show i + 1 + j = i + (j + 1) by omega]⟩
      · rintro (h | ⟨j, hj, h⟩)
        · exact ⟨0, by omega, h⟩
        · exact ⟨j + 1, by omega, by rwa [show i + (j + 1) = i + 1 + j by omega]⟩
    rw [hs, ← ih]
    simp only [memRead]
    cases get b i <;> cases memRead b (i + 1) n <;> simp

theorem wf_cons {i : Nat} {v : BitVec w} {rest : Buffer w} :
    wf ((i, v) :: rest) = true ↔ (∀ e ∈ rest.head?, i < e.1) ∧ wf rest = true := by
  cases rest with
  | nil => simp [wf]
  | cons e r => obtain ⟨j, u⟩ := e; simp [wf]

theorem head_set (b : Buffer w) (i : Nat) (v : BitVec w) :
    ∀ e ∈ (set b i v).head?, e.1 = i ∨ e ∈ b.head? ∧ e.1 < i := by
  cases b with
  | nil => simp [set]
  | cons e rest =>
    obtain ⟨k, u⟩ := e
    simp only [set]
    split
    · simp
    · split
      · simp
      · simp; omega

theorem wf_set (b : Buffer w) (i : Nat) (v : BitVec w) (h : wf b = true) : wf (set b i v) = true := by
  induction b with
  | nil => rfl
  | cons e rest ih =>
    obtain ⟨k, u⟩ := e
    have ⟨h1, h2⟩ := wf_cons.1 h
    simp only [set]
    split
    · exact wf_cons.2 ⟨by simpa, h⟩
    · split
      · subst i; exact wf_cons.2 ⟨h1, h2⟩
      · refine wf_cons.2 ⟨fun e he => ?_, ih h2⟩
        rcases head_set rest i v e he with h3 | ⟨h3, _⟩
        · omega
        · exact h1 e h3

theorem wf_memWrite (vs : List (BitVec w)) : ∀ (b : Buffer w) (i : Nat), wf b = true → wf (memWrite b i vs) = true := by
  induction vs with
  | nil => intro b i h; exact h
  | cons v vs ih => intro b i h; exact ih _ _ (wf_set b i v h)

theorem inRange_set {m : Nat} (b : Buffer w) (i : Nat) (v : BitVec w) (hi : i < m) (h : inRange m b = true) :
    inRange m (set b i v) = true := by
  induction b with
  | nil => simp [set, inRange, hi]
  | cons e rest ih =>
    obtain ⟨k, u⟩ := e
    simp only [inRange, List.all_cons, Bool.and_eq_true, decide_eq_true_eq] at h ih ⊢
    simp only [set]
    split
    · simp [hi, h.1, h.2]
    · split
      · simp [hi, h.2]
      · simp [h.1, ih h.2]

theorem inRange_memWrite {m : Nat} (vs : List (BitVec w)) : ∀ (b : Buffer w) (i : Nat), i + vs.length ≤ m →
    inRange m b = true → inRange m (memWrite b i vs) = true := by
  induction vs with
  | nil => intro b i _ h; exact h
  | cons v vs ih =>
    intro b i hl h
    rw [List.length_cons] at hl
    exact ih _ _ (by omega) (inRange_set b i v (by omega) h)

end Sys2Proof.Machine.Buffer
end

