-- ==== Sys2Proof/Laws/State.lean ====
section
/-!
SUPPORT. One lemma per field of the state per shared update, so that no proof unfolds a record update.
-/

namespace Sys2Proof.Machine

@[simp] theorem complete_caps (op : BitVec 2) (r : Result) (s : State) : (complete op r s).caps = s.caps := rfl
@[simp] theorem complete_desc (op : BitVec 2) (r : Result) (s : State) : (complete op r s).desc = s.desc := rfl
@[simp] theorem complete_status (op : BitVec 2) (r : Result) (s : State) : (complete op r s).status = Status.ofResult op r := rfl
@[simp] theorem complete_crcOut (op : BitVec 2) (r : Result) (s : State) : (complete op r s).crcOut = r.crcOut := rfl
@[simp] theorem complete_outLen (op : BitVec 2) (r : Result) (s : State) : (complete op r s).outLen = r.outLen := rfl
@[simp] theorem complete_errCsum (op : BitVec 2) (r : Result) (s : State) : (complete op r s).errCsum = r.errCsum := rfl
@[simp] theorem complete_errLen (op : BitVec 2) (r : Result) (s : State) : (complete op r s).errLen = r.errLen := rfl
@[simp] theorem complete_mem (op : BitVec 2) (r : Result) (s : State) : (complete op r s).mem = s.mem.commit r := rfl
@[simp] theorem complete_req (op : BitVec 2) (r : Result) (s : State) : (complete op r s).req = s.req := rfl
@[simp] theorem complete_acc (op : BitVec 2) (r : Result) (s : State) : (complete op r s).acc = Config.freeAcc s.fresh := rfl
@[simp] theorem complete_pos (op : BitVec 2) (r : Result) (s : State) : (complete op r s).pos = Config.freePos s.fresh := rfl
@[simp] theorem complete_refused (op : BitVec 2) (r : Result) (s : State) : (complete op r s).refused = s.refused := rfl
@[simp] theorem complete_hostQueue (op : BitVec 2) (r : Result) (s : State) : (complete op r s).hostQueue = s.hostQueue := rfl
@[simp] theorem complete_turns (op : BitVec 2) (r : Result) (s : State) : (complete op r s).turns = s.turns := rfl
@[simp] theorem complete_hostReads (op : BitVec 2) (r : Result) (s : State) : (complete op r s).hostReads = s.hostReads := rfl
@[simp] theorem complete_fresh (op : BitVec 2) (r : Result) (s : State) : (complete op r s).fresh = s.fresh + 1 := rfl

@[simp] theorem issue_caps (v : Reg) (s : State) : (issue v s).caps = s.caps := rfl
@[simp] theorem issue_desc (v : Reg) (s : State) : (issue v s).desc = v := rfl
@[simp] theorem issue_status (v : Reg) (s : State) : (issue v s).status = { s.status with busy := true } := rfl
@[simp] theorem issue_crcOut (v : Reg) (s : State) : (issue v s).crcOut = s.crcOut := rfl
@[simp] theorem issue_outLen (v : Reg) (s : State) : (issue v s).outLen = s.outLen := rfl
@[simp] theorem issue_errCsum (v : Reg) (s : State) : (issue v s).errCsum = s.errCsum := rfl
@[simp] theorem issue_errLen (v : Reg) (s : State) : (issue v s).errLen = s.errLen := rfl
@[simp] theorem issue_mem (v : Reg) (s : State) : (issue v s).mem = s.mem := rfl
@[simp] theorem issue_req (v : Reg) (s : State) : (issue v s).req = v := rfl
@[simp] theorem issue_acc (v : Reg) (s : State) : (issue v s).acc = s.acc := rfl
@[simp] theorem issue_pos (v : Reg) (s : State) : (issue v s).pos = s.pos := rfl
@[simp] theorem issue_refused (v : Reg) (s : State) : (issue v s).refused = s.refused := rfl
@[simp] theorem issue_hostQueue (v : Reg) (s : State) : (issue v s).hostQueue = s.hostQueue := rfl
@[simp] theorem issue_turns (v : Reg) (s : State) : (issue v s).turns = s.turns := rfl
@[simp] theorem issue_hostReads (v : Reg) (s : State) : (issue v s).hostReads = s.hostReads := rfl
@[simp] theorem issue_fresh (v : Reg) (s : State) : (issue v s).fresh = s.fresh := rfl

@[simp] theorem returnRead_caps (v : ReadValue) (s : State) : (returnRead v s).caps = s.caps := rfl
@[simp] theorem returnRead_desc (v : ReadValue) (s : State) : (returnRead v s).desc = s.desc := rfl
@[simp] theorem returnRead_status (v : ReadValue) (s : State) : (returnRead v s).status = s.status := rfl
@[simp] theorem returnRead_crcOut (v : ReadValue) (s : State) : (returnRead v s).crcOut = s.crcOut := rfl
@[simp] theorem returnRead_outLen (v : ReadValue) (s : State) : (returnRead v s).outLen = s.outLen := rfl
@[simp] theorem returnRead_errCsum (v : ReadValue) (s : State) : (returnRead v s).errCsum = s.errCsum := rfl
@[simp] theorem returnRead_errLen (v : ReadValue) (s : State) : (returnRead v s).errLen = s.errLen := rfl
@[simp] theorem returnRead_mem (v : ReadValue) (s : State) : (returnRead v s).mem = s.mem := rfl
@[simp] theorem returnRead_req (v : ReadValue) (s : State) : (returnRead v s).req = s.req := rfl
@[simp] theorem returnRead_acc (v : ReadValue) (s : State) : (returnRead v s).acc = s.acc := rfl
@[simp] theorem returnRead_pos (v : ReadValue) (s : State) : (returnRead v s).pos = s.pos := rfl
@[simp] theorem returnRead_refused (v : ReadValue) (s : State) : (returnRead v s).refused = s.refused := rfl
@[simp] theorem returnRead_hostQueue (v : ReadValue) (s : State) : (returnRead v s).hostQueue = s.hostQueue := rfl
@[simp] theorem returnRead_turns (v : ReadValue) (s : State) : (returnRead v s).turns = s.turns := rfl
@[simp] theorem returnRead_hostReads (v : ReadValue) (s : State) : (returnRead v s).hostReads = v :: s.hostReads := rfl
@[simp] theorem returnRead_fresh (v : ReadValue) (s : State) : (returnRead v s).fresh = s.fresh := rfl

@[simp] theorem popTurn_caps (s : State) : (s.popTurn).caps = s.caps := rfl
@[simp] theorem popTurn_desc (s : State) : (s.popTurn).desc = s.desc := rfl
@[simp] theorem popTurn_status (s : State) : (s.popTurn).status = s.status := rfl
@[simp] theorem popTurn_crcOut (s : State) : (s.popTurn).crcOut = s.crcOut := rfl
@[simp] theorem popTurn_outLen (s : State) : (s.popTurn).outLen = s.outLen := rfl
@[simp] theorem popTurn_errCsum (s : State) : (s.popTurn).errCsum = s.errCsum := rfl
@[simp] theorem popTurn_errLen (s : State) : (s.popTurn).errLen = s.errLen := rfl
@[simp] theorem popTurn_mem (s : State) : (s.popTurn).mem = s.mem := rfl
@[simp] theorem popTurn_req (s : State) : (s.popTurn).req = s.req := rfl
@[simp] theorem popTurn_acc (s : State) : (s.popTurn).acc = s.acc := rfl
@[simp] theorem popTurn_pos (s : State) : (s.popTurn).pos = s.pos := rfl
@[simp] theorem popTurn_refused (s : State) : (s.popTurn).refused = s.refused := rfl
@[simp] theorem popTurn_hostQueue (s : State) : (s.popTurn).hostQueue = s.hostQueue := rfl
@[simp] theorem popTurn_turns (s : State) : (s.popTurn).turns = s.turns.tail := rfl
@[simp] theorem popTurn_hostReads (s : State) : (s.popTurn).hostReads = s.hostReads := rfl
@[simp] theorem popTurn_fresh (s : State) : (s.popTurn).fresh = s.fresh := rfl

@[simp] theorem markRefused_caps (s : State) : (s.markRefused).caps = s.caps := rfl
@[simp] theorem markRefused_desc (s : State) : (s.markRefused).desc = s.desc := rfl
@[simp] theorem markRefused_status (s : State) : (s.markRefused).status = s.status := rfl
@[simp] theorem markRefused_crcOut (s : State) : (s.markRefused).crcOut = s.crcOut := rfl
@[simp] theorem markRefused_outLen (s : State) : (s.markRefused).outLen = s.outLen := rfl
@[simp] theorem markRefused_errCsum (s : State) : (s.markRefused).errCsum = s.errCsum := rfl
@[simp] theorem markRefused_errLen (s : State) : (s.markRefused).errLen = s.errLen := rfl
@[simp] theorem markRefused_mem (s : State) : (s.markRefused).mem = s.mem := rfl
@[simp] theorem markRefused_req (s : State) : (s.markRefused).req = s.req := rfl
@[simp] theorem markRefused_acc (s : State) : (s.markRefused).acc = s.acc := rfl
@[simp] theorem markRefused_pos (s : State) : (s.markRefused).pos = s.pos := rfl
@[simp] theorem markRefused_refused (s : State) : (s.markRefused).refused = true := rfl
@[simp] theorem markRefused_hostQueue (s : State) : (s.markRefused).hostQueue = s.hostQueue := rfl
@[simp] theorem markRefused_turns (s : State) : (s.markRefused).turns = s.turns := rfl
@[simp] theorem markRefused_hostReads (s : State) : (s.markRefused).hostReads = s.hostReads := rfl
@[simp] theorem markRefused_fresh (s : State) : (s.markRefused).fresh = s.fresh := rfl

@[simp] theorem resetStep_caps (s : State) : (resetStep s).caps = s.caps := rfl
@[simp] theorem resetStep_desc (s : State) : (resetStep s).desc = 0 := rfl
@[simp] theorem resetStep_status (s : State) : (resetStep s).status = Status.reset := rfl
@[simp] theorem resetStep_crcOut (s : State) : (resetStep s).crcOut = 0 := rfl
@[simp] theorem resetStep_outLen (s : State) : (resetStep s).outLen = 0 := rfl
@[simp] theorem resetStep_errCsum (s : State) : (resetStep s).errCsum = 0 := rfl
@[simp] theorem resetStep_errLen (s : State) : (resetStep s).errLen = 0 := rfl
@[simp] theorem resetStep_mem (s : State) : (resetStep s).mem = Memory.reset := rfl
@[simp] theorem resetStep_req (s : State) : (resetStep s).req = 0 := rfl
@[simp] theorem resetStep_acc (s : State) : (resetStep s).acc = 0 := rfl
@[simp] theorem resetStep_pos (s : State) : (resetStep s).pos = 0 := rfl
@[simp] theorem resetStep_refused (s : State) : (resetStep s).refused = s.refused := rfl
@[simp] theorem resetStep_hostQueue (s : State) : (resetStep s).hostQueue = s.hostQueue := rfl
@[simp] theorem resetStep_turns (s : State) : (resetStep s).turns = s.turns := rfl
@[simp] theorem resetStep_hostReads (s : State) : (resetStep s).hostReads = s.hostReads := rfl
@[simp] theorem resetStep_fresh (s : State) : (resetStep s).fresh = s.fresh := rfl

@[simp] theorem commit_argIn (m : Memory) (r : Result) : (m.commit r).argIn = m.argIn := by cases r <;> rfl
@[simp] theorem commit_rawIn (m : Memory) (r : Result) : (m.commit r).rawIn = m.rawIn := by cases r <;> rfl

@[simp] theorem commit_crc (m : Memory) (c : Byte) : m.commit (.crc c) = m := rfl
@[simp] theorem commit_err (m : Memory) (e : ErrorRecord) : m.commit (.err e) = m := rfl
@[simp] theorem commit_frame_frameOut (m : Memory) (f : List Byte) :
    (m.commit (.frame f)).frameOut = Buffer.memWrite m.frameOut 0 f := rfl
@[simp] theorem commit_frame_wordsOut (m : Memory) (f : List Byte) : (m.commit (.frame f)).wordsOut = m.wordsOut := rfl
@[simp] theorem commit_words_wordsOut (m : Memory) (ws : List Word) :
    (m.commit (.words ws)).wordsOut = Buffer.memWrite m.wordsOut 0 ws := rfl
@[simp] theorem commit_words_frameOut (m : Memory) (ws : List Word) : (m.commit (.words ws)).frameOut = m.frameOut := rfl

@[simp] theorem ofResult_busy (op : BitVec 2) (r : Result) : (Status.ofResult op r).busy = false := rfl
@[simp] theorem ofResult_resultKind (op : BitVec 2) (r : Result) : (Status.ofResult op r).resultKind = some r.kind := rfl
@[simp] theorem ofResult_errKind (op : BitVec 2) (r : Result) : (Status.ofResult op r).errKind = r.errKind := rfl
@[simp] theorem ofResult_illegalCause (op : BitVec 2) (r : Result) :
    (Status.ofResult op r).illegalCause = r.illegalCause := rfl
@[simp] theorem ofResult_lastOp (op : BitVec 2) (r : Result) : (Status.ofResult op r).lastOp = op := rfl

end Sys2Proof.Machine
end

