-- ==== Sys2Proof/Laws/Ops.lean ====
section
/-!
SUPPORT. What the shared operations can do, said once: the bytes and lengths of word groups and frames, the canonical form
under a commit and at reset, and the next states of the host's reads.
-/

namespace Sys2Proof.Machine

@[simp] theorem joinBytes_hiByte_loByte (w : Word) : joinBytes (hiByte w) (loByte w) = w := by
  refine BitVec.eq_of_getLsbD_eq fun i hi => ?_
  unfold joinBytes hiByte loByte
  rw [BitVec.getLsbD_append]
  split
  · next h => simp [h]
  · next h => simp [show 8 + (i - 8) = i by omega]; omega

@[simp] theorem wordGroups_length (ws : List Word) : (wordGroups ws).length = 3 * ws.length := by
  induction ws with
  | nil => rfl
  | cons w ws ih => simp only [wordGroups, wordGroup, List.length_append, List.length_cons, List.length_nil, ih]; omega

@[simp] theorem buildFrame_length (cmd : Word) (args : List Word) : (buildFrame cmd args).length = 2 + 3 * args.length := by
  simp only [buildFrame, List.length_cons, wordGroups_length]; omega

/-- The words a response yields are as many as its groups. -/
theorem checkGroups_length (n : Nat) : ∀ (g : Nat) (raw : List Byte) (ws : List Word), raw.length = 3 * n →
    checkGroups g raw = .ok ws → ws.length = n := by
  induction n with
  | zero =>
    intro g raw ws hl h
    obtain rfl : raw = [] := List.eq_nil_of_length_eq_zero (by omega)
    simp only [checkGroups, Except.ok.injEq] at h
    simp [← h]
  | succ n ih =>
    intro g raw ws hl h
    match raw, hl with
    | b0 :: b1 :: c :: rest, hl =>
      simp only [checkGroups] at h
      split at h
      · split at h
        case h_1 us hu =>
          obtain rfl := Except.ok.inj h
          have := ih (g + 1) rest us (by simp only [List.length_cons] at hl; omega) hu
          simp [this]
        case h_2 => cases h
      · cases h

/-- A commit keeps the canonical form of the memory. -/
theorem commit_wf (m : Memory) (r : Result) (h : m.wf = true) : (m.commit r).wf = true := by
  simp only [Memory.wf, Bool.and_eq_true] at h ⊢
  cases r with
  | crc c => exact h
  | frame f => exact ⟨⟨h.1.1, Buffer.wf_memWrite f _ _ h.1.2⟩, h.2⟩
  | words ws => exact ⟨h.1, Buffer.wf_memWrite ws _ _ h.2⟩
  | err e => exact h

/-- A host write of an input buffer keeps the canonical form of the memory. -/
theorem argIn_set_wf (m : Memory) (i : Nat) (w : Word) (h : m.wf = true) :
    Memory.wf { m with argIn := Buffer.set m.argIn i w } = true := by
  simp only [Memory.wf, Bool.and_eq_true] at h ⊢
  exact ⟨⟨⟨Buffer.wf_set _ i w h.1.1.1, h.1.1.2⟩, h.1.2⟩, h.2⟩

theorem rawIn_set_wf (m : Memory) (j : Nat) (b : Byte) (h : m.wf = true) :
    Memory.wf { m with rawIn := Buffer.set m.rawIn j b } = true := by
  simp only [Memory.wf, Bool.and_eq_true] at h ⊢
  exact ⟨⟨⟨h.1.1.1, Buffer.wf_set _ j b h.1.1.2⟩, h.1.2⟩, h.2⟩

theorem reset_mem_wf (c : Capacity) : (State.resetWith c).mem.wf = true := rfl

/-- A completion either commits one result of the operation, or is refused for an unwritten input entry. -/
theorem exec_cases (i : Instr) (s : State) :
    (∃ r, exec i s = .next (complete i.op r s)) ∨ exec i s = .refused .unwrittenInputRead := by
  cases i with
  | crc8 w => exact .inl ⟨_, rfl⟩
  | frame k cmd =>
    simp only [exec, execFrame, raise]
    split
    · exact .inl ⟨_, rfl⟩
    · split
      · exact .inr rfl
      · exact .inl ⟨_, rfl⟩
  | decode n len =>
    simp only [exec, execDecode, raise]
    split
    · exact .inl ⟨_, rfl⟩
    · split
      · exact .inl ⟨_, rfl⟩
      · split
        · exact .inr rfl
        · split
          · exact .inl ⟨_, rfl⟩
          · exact .inl ⟨_, rfl⟩

/-- What the engine's completion can do: it commits one result, or is refused for an unwritten input entry. -/
theorem engineComplete_cases (s : State) :
    (∃ op r, engineComplete s = .next (complete op r s)) ∨ engineComplete s = .refused .unwrittenInputRead := by
  unfold engineComplete
  split
  · exact .inl ⟨_, _, rfl⟩
  · rcases exec_cases _ s with ⟨r, h⟩ | h
    · exact .inl ⟨_, r, h⟩
    · exact .inr h

/-- What one host access can do when it is not refused: nothing, a read, an issue while not busy, or a write of an input
buffer while not busy, within its range; each write names its access. -/
theorem hostAccess_cases {a : HostAccess} {s t : State} (h : hostAccess a s = .next t) :
    t = s ∨ (∃ v, t = returnRead v s) ∨ (s.status.busy = false ∧ ∃ v, a = .writeReg 0 v ∧ t = issue v s) ∨
    (s.status.busy = false ∧ ∃ i w, a = .argWrite i w ∧ i < s.caps.maxArgs ∧
      t = { s with mem := { s.mem with argIn := Buffer.set s.mem.argIn i w } }) ∨
    (s.status.busy = false ∧ ∃ j b, a = .rawWrite j b ∧ j < s.caps.maxRaw ∧
      t = { s with mem := { s.mem with rawIn := Buffer.set s.mem.rawIn j b } }) := by
  cases a with
  | writeReg n v =>
    simp only [hostAccess, hostWriteReg] at h
    split at h
    · split at h
      · cases h
      · cases h; exact .inr (.inr (.inl ⟨by simp_all, v, by simp_all, rfl⟩))
    · cases h; exact .inl rfl
  | readReg n =>
    simp only [hostAccess, hostReadReg] at h
    split at h
    · cases h
    · cases h; exact .inr (.inl ⟨_, rfl⟩)
  | argWrite i w =>
    simp only [hostAccess, hostArgWrite] at h
    split at h
    · cases h
    · split at h
      · cases h
      · cases h; exact .inr (.inr (.inr (.inl ⟨by simp_all, i, w, rfl, by omega, rfl⟩)))
  | argRead i =>
    simp only [hostAccess, hostArgRead] at h
    split at h
    · cases h
    · split at h
      · cases h
      · cases h; exact .inr (.inl ⟨_, rfl⟩)
  | rawWrite j b =>
    simp only [hostAccess, hostRawWrite] at h
    split at h
    · cases h
    · split at h
      · cases h
      · cases h; exact .inr (.inr (.inr (.inr ⟨by simp_all, j, b, rfl, by omega, rfl⟩)))
  | rawRead j =>
    simp only [hostAccess, hostRawRead] at h
    split at h
    · cases h
    · split at h
      · cases h
      · cases h; exact .inr (.inl ⟨_, rfl⟩)
  | frameRead j =>
    simp only [hostAccess, hostFrameRead] at h
    split at h
    · cases h
    · split at h
      · cases h
      · split at h
        · split at h
          · cases h
          · cases h; exact .inr (.inl ⟨_, rfl⟩)
        · cases h
  | wordsRead g =>
    simp only [hostAccess, hostWordsRead] at h
    split at h
    · cases h
    · split at h
      · cases h
      · split at h
        · split at h
          · cases h
          · cases h; exact .inr (.inl ⟨_, rfl⟩)
        · cases h
  | wait =>
    simp only [hostAccess, hostWait, hostReadReg] at h
    split at h
    · cases h
    · cases h; exact .inr (.inl ⟨_, rfl⟩)

end Sys2Proof.Machine
end

