-- ==== Sys2Proof/Laws/Exec.lean ====
section
/-!
SUPPORT. What each operation and each agent's turn does, one lemma per case, and the frame of a commit.
-/

namespace Sys2Proof.Machine

theorem complete_completionFrame (op : BitVec 2) (r : Result) (s : State) : CompletionFrame s (complete op r s) := by
  constructor <;> simp

theorem raise_illegalCommitted (op : BitVec 2) (cause : IllegalCause) (s : State) :
    IllegalCommitted s (raise op (.illegalRequest cause) s) op cause := by
  constructor <;> first | rfl | exact complete_completionFrame _ _ _

theorem exec_crc8 (w : Word) (s : State) :
    exec (.crc8 w) s = .next (complete 0b00#2 (.crc (crc8Word (hiByte w) (loByte w))) s) := rfl

theorem exec_frame_over {k : Byte} {s : State} (cmd : Word) (h : s.caps.maxArgs < k.toNat) :
    exec (.frame k cmd) s = .next (raise 0b01#2 (.illegalRequest .argsOverCapacity) s) := by
  simp [exec, execFrame, h]

theorem exec_frame_of_read {k : Byte} {s : State} {args : List Word} (cmd : Word) (h : k.toNat ≤ s.caps.maxArgs)
    (hr : Buffer.memRead s.mem.argIn 0 k.toNat = some args) :
    exec (.frame k cmd) s = .next (complete 0b01#2 (.frame (buildFrame cmd args)) s) := by
  simp [exec, execFrame, Nat.not_lt.2 h, hr]

theorem exec_frame_unwritten {k : Byte} {s : State} (cmd : Word) (h : k.toNat ≤ s.caps.maxArgs)
    (hr : Buffer.memRead s.mem.argIn 0 k.toNat = none) : exec (.frame k cmd) s = .refused .unwrittenInputRead := by
  simp [exec, execFrame, Nat.not_lt.2 h, hr]

theorem exec_decode_over {n : Byte} {s : State} (len : Word) (h : s.caps.maxGroups < n.toNat) :
    exec (.decode n len) s = .next (raise 0b10#2 (.illegalRequest .groupsOverCapacity) s) := by
  simp [exec, execDecode, h]

theorem exec_decode_length {n : Byte} {len : Word} {s : State} (h : n.toNat ≤ s.caps.maxGroups)
    (hl : len.toNat ≠ 3 * n.toNat) :
    exec (.decode n len) s = .next (raise 0b10#2 (lengthError n.toNat len.toNat) s) := by
  simp [exec, execDecode, Nat.not_lt.2 h, hl]

theorem exec_decode_unwritten {n : Byte} {len : Word} {s : State} (h : n.toNat ≤ s.caps.maxGroups)
    (hl : len.toNat = 3 * n.toNat) (hr : Buffer.memRead s.mem.rawIn 0 len.toNat = none) :
    exec (.decode n len) s = .refused .unwrittenInputRead := by
  rw [hl] at hr
  simp [exec, execDecode, Nat.not_lt.2 h, hl, hr]

theorem exec_decode_invalid {n : Byte} {len : Word} {s : State} {raw : List Byte} {e : ErrorRecord}
    (h : n.toNat ≤ s.caps.maxGroups) (hl : len.toNat = 3 * n.toNat)
    (hr : Buffer.memRead s.mem.rawIn 0 len.toNat = some raw) (he : decodeGroups raw n.toNat = .error e) :
    exec (.decode n len) s = .next (raise 0b10#2 e s) := by
  rw [hl] at hr
  simp [exec, execDecode, Nat.not_lt.2 h, hl, hr, he]

theorem exec_decode_valid {n : Byte} {len : Word} {s : State} {raw : List Byte} {ws : List Word}
    (h : n.toNat ≤ s.caps.maxGroups) (hl : len.toNat = 3 * n.toNat)
    (hr : Buffer.memRead s.mem.rawIn 0 len.toNat = some raw) (hw : decodeGroups raw n.toNat = .ok ws) :
    exec (.decode n len) s = .next (complete 0b10#2 (.words ws) s) := by
  rw [hl] at hr
  simp [exec, execDecode, Nat.not_lt.2 h, hl, hr, hw]

/-- The engine's turn is the completion of REQ. -/
theorem step_of_engineReady {s : State} (h : s.EngineReady) : step s = engineComplete s.popTurn := by
  simp [step, h.1, engineStep, h.2]

/-- The host's turn with an access left performs it. -/
theorem step_of_host {s : State} {a : HostAccess} {rest : List HostAccess} (h : s.agent = .host)
    (hq : s.hostQueue = a :: rest) :
    step s = hostAccess a { s.popTurn with hostQueue := queueAfter s.status.busy (a :: rest) } := by
  simp only [step, h, hostStep, popTurn_hostQueue, hq, popTurn_status]

/-- The host's turn with no access left does nothing. -/
theorem step_of_host_idle {s : State} (h : s.agent = .host) (hq : s.hostQueue = []) : step s = .next s.popTurn := by
  simp only [step, h, hostStep, popTurn_hostQueue, hq]

/-- The engine's turn while BUSY = 0 does nothing. -/
theorem step_of_engine_idle {s : State} (h : s.agent = .engine) (hb : s.status.busy = false) :
    step s = .next s.popTurn := by
  simp [step, h, engineStep, hb]

/-- The reset's turn. -/
theorem step_of_reset {s : State} (h : s.agent = .reset) : step s = .next (resetStep s.popTurn) := by
  simp [step, h]

/-- Everything a step that is not refused can do, by whose turn it is. -/
theorem step_cases {s t : State} (h : step s = .next t) :
    (s.agent = .engine ∧ s.status.busy = false ∧ t = s.popTurn) ∨
    (s.EngineReady ∧ ∃ op r, t = complete op r s.popTurn) ∨
    (s.agent = .reset ∧ t = resetStep s.popTurn) ∨
    (s.agent = .host ∧ s.hostQueue = [] ∧ t = s.popTurn) ∨
    (s.agent = .host ∧ ∃ a rest, s.hostQueue = a :: rest ∧
      hostAccess a { s.popTurn with hostQueue := queueAfter s.status.busy (a :: rest) } = .next t) := by
  cases ha : s.agent with
  | reset => rw [step_of_reset ha] at h; cases h; exact .inr (.inr (.inl ⟨rfl, rfl⟩))
  | engine =>
    cases hb : s.status.busy with
    | false => rw [step_of_engine_idle ha hb] at h; cases h; exact .inl ⟨rfl, rfl, rfl⟩
    | true =>
      rw [step_of_engineReady ⟨ha, hb⟩] at h
      rcases engineComplete_cases s.popTurn with ⟨op, r, hr⟩ | hr <;> rw [hr] at h <;> cases h
      exact .inr (.inl ⟨⟨ha, hb⟩, op, r, rfl⟩)
  | host =>
    cases hq : s.hostQueue with
    | nil => rw [step_of_host_idle ha hq] at h; cases h; exact .inr (.inr (.inr (.inl ⟨rfl, rfl, rfl⟩)))
    | cons a rest => rw [step_of_host ha hq] at h; exact .inr (.inr (.inr (.inr ⟨rfl, a, rest, rfl, h⟩)))

end Sys2Proof.Machine
end

