-- ==== Sys2Proof/Laws/Flags.lean ====
section
/-!
SUPPORT. The fields of the error records and of the STATUS word (10_state.md R25, R28, R29), each read back by its bits.
-/

namespace Sys2Proof.Machine

section ErrCsum
variable (g e a : Byte)

theorem errCsum_group : (Result.errCsum (.err (.checksumMismatch g e a))).extractLsb' 0 8 = g := by
  refine BitVec.eq_of_getLsbD_eq fun i hi => ?_
  simp only [Result.errCsum, BitVec.getLsbD_extractLsb', BitVec.getLsbD_append]
  interval_cases i <;> simp

theorem errCsum_expected : (Result.errCsum (.err (.checksumMismatch g e a))).extractLsb' 8 8 = e := by
  refine BitVec.eq_of_getLsbD_eq fun i hi => ?_
  simp only [Result.errCsum, BitVec.getLsbD_extractLsb', BitVec.getLsbD_append]
  interval_cases i <;> simp

theorem errCsum_actual : (Result.errCsum (.err (.checksumMismatch g e a))).extractLsb' 16 8 = a := by
  refine BitVec.eq_of_getLsbD_eq fun i hi => ?_
  simp only [Result.errCsum, BitVec.getLsbD_extractLsb', BitVec.getLsbD_append]
  interval_cases i <;> simp

theorem errCsum_reserved : (Result.errCsum (.err (.checksumMismatch g e a))).extractLsb' 24 8 = 0 := by
  refine BitVec.eq_of_getLsbD_eq fun i hi => ?_
  simp only [Result.errCsum, BitVec.getLsbD_extractLsb', BitVec.getLsbD_append]
  interval_cases i <;> simp

end ErrCsum

theorem errLen_expected (el al : Word) :
    (Result.errLen (.err (.malformedResponse el al))).extractLsb' 0 16 = el := by
  refine BitVec.eq_of_getLsbD_eq fun i hi => ?_
  simp only [Result.errLen, BitVec.getLsbD_extractLsb', BitVec.getLsbD_append]
  interval_cases i <;> simp

theorem errLen_actual (el al : Word) :
    (Result.errLen (.err (.malformedResponse el al))).extractLsb' 16 16 = al := by
  refine BitVec.eq_of_getLsbD_eq fun i hi => ?_
  simp only [Result.errLen, BitVec.getLsbD_extractLsb', BitVec.getLsbD_append]
  interval_cases i <;> simp

/-- A bit of the STATUS word, from the field it lies in (R25). -/
theorem word_getLsbD (st : Status) (i : Nat) (hi : i < 32) : st.word.getLsbD i =
    if i < 1 then st.busy
    else if i < 4 then (resultKindCode st.resultKind).getLsbD (i - 1)
    else if i < 8 then (errKindCode st.errKind).getLsbD (i - 4)
    else if i < 12 then (illegalCauseCode st.illegalCause).getLsbD (i - 8)
    else st.lastOp.getLsbD (i - 12) := by
  simp only [Status.word, BitVec.getLsbD_append]
  interval_cases i <;> simp

end Sys2Proof.Machine
end

