-- ==== Sys2Proof/Laws/PerInstr.lean ====
section
/-!
SUPPORT. Statements about every operation as syntax, one lemma per constructor.
-/

namespace Sys2Proof.Laws.DescriptorFields

/-- The descriptor of an operation has the operation's `OP` value and a zero reserved field (30_encoding.md R71). -/
def Statement (i : Instr) : Prop := opField (encodeDesc i) = i.op ∧ rsvField (encodeDesc i) = 0

theorem descriptor_fields (op : BitVec 2) (count : Byte) (value : Word) :
    opField (descriptor op count value) = op ∧ rsvField (descriptor op count value) = 0 := by
  constructor <;> ext i hi <;>
    simp only [opField, rsvField, descriptor, BitVec.getElem_extractLsb', BitVec.getLsbD_append] <;>
    interval_cases i <;> simp

theorem crc8 (w : Word) : Statement (.crc8 w) := descriptor_fields _ _ _

theorem frame (k : Byte) (cmd : Word) : Statement (.frame k cmd) := descriptor_fields _ _ _

theorem decode (n : Byte) (len : Word) : Statement (.decode n len) := descriptor_fields _ _ _

end Sys2Proof.Laws.DescriptorFields
end

