-- ==== Sys2Proof/Tests/Slice0.lean ====
section
/-!
SUPPORT. The model's own tests: expected values from spec/95_test_vectors.md and the rules named beside them, each one step on
a small state. After them, for every statement with hypotheses, a witness that meets them together.
-/

namespace Sys2Proof.Tests.Slice0

open Sys2Proof Sys2Proof.Machine

/-- The parameters of the vectors of 95_test_vectors.md: MAX_ARGS = 4, MAX_GROUPS = 20. -/
def caps : Capacity := ⟨4, 20⟩

/-- A block after reset with those parameters. -/
def fresh : State := State.resetWith caps

/-- That block with argument words and response bytes written. -/
def withInputs (args : List Word) (raw : List Byte) : State :=
  { fresh with mem := { fresh.mem with argIn := Buffer.memWrite [] 0 args, rawIn := Buffer.memWrite [] 0 raw } }

/-- A state with descriptor `d` issued and the engine next to move. -/
def issued (d : Reg) (s : State) : State := { issue d s with turns := [.engine] }

/-- A busy block. -/
def busyBlock : State := issue 0 fresh

/-- The next state of an outcome. -/
def nextOf : Host.Outcome State Fault Refusal → Option State
  | .next t => some t
  | .fault _ => none
  | .refused _ => none

/-- The refusal of an outcome. -/
def refusalOf : Host.Outcome State Fault Refusal → Option Refusal
  | .next _ => none
  | .fault _ => none
  | .refused r => some r

/-- STATUS, CRC_OUT, OUT_LEN, ERR_CSUM and ERR_LEN after an outcome. -/
def registersOf (o : Host.Outcome State Fault Refusal) : Option (List Reg) :=
  (nextOf o).map fun t => [t.status.word, t.crcOut, t.outLen, t.errCsum, t.errLen]

/-! ## WellFormed: one ill-formed term for each check, and the largest legal count beside it (R72) -/

theorem test_wellFormed_frame : Instr.wellFormed caps (.frame 5 0x0010) = false ∧
    Instr.wellFormed caps (.frame 4 0x0010) = true := by decide

theorem test_wellFormed_decode : Instr.wellFormed caps (.decode 21 0) = false ∧
    Instr.wellFormed caps (.decode 20 60) = true := by decide

/-! ## Decoding: words written out from the patterns of R71 -/

theorem test_decode_crc8 :
    decodeDesc 0b00000000000000001011111011101111#32 = .ok (.crc8 0xBEEF) := by decide

theorem test_decode_frame :
    decodeDesc 0b01000000000000010000000000010000#32 = .ok (.frame 1 0x0010) := by decide

theorem test_decode_decode :
    decodeDesc 0b10000000000101000000000000111100#32 = .ok (.decode 20 60) := by decide

/-- R78: RESERVED_OP is judged before RSV (vector I2), RESERVED_BITS for RSV and for the COUNT of CRC8 (C5, C4). -/
theorem test_decode_rejects : decodeDesc 0xFFFFFFFF#32 = .error .reservedOp ∧
    decodeDesc 0x01000000#32 = .error .reservedBits ∧ decodeDesc 0x00010000#32 = .error .reservedBits := by decide

/-! ## The checksum (vectors C, S8, R108) -/

theorem test_crc8_vectors :
    ([0x0000, 0xFFFF, 0xBEEF, 0xFF00, 0x00FF, 0x0100, 0x0080, 0x8000, 0x00AC, 0x1234, 0x5555, 0x7FFF] : List Word).map crc8OfWord =
      [0x81, 0xAC, 0x92, 0x00, 0x2D, 0x75, 0xFB, 0xA2, 0x00, 0x37, 0x9A, 0x8F] := by decide +kernel

/-- The catalogue's check value over the ASCII string 123456789 (R2, R102). -/
theorem test_crc8_check : crc8Seq [0x31, 0x32, 0x33, 0x34, 0x35, 0x36, 0x37, 0x38, 0x39] = 0xF7 := by decide +kernel

/-! ## The operations -/

/-- Vector C1. -/
theorem test_crc8_beef : registersOf (step (issued 0x0000BEEF fresh)) = some [0x00000002, 0x92, 0, 0, 0] := by
  decide +kernel

/-- Vector C3: a zero checksum with RESULT_KIND = CRC. -/
theorem test_crc8_zero : registersOf (step (issued 0x0000FF00 fresh)) = some [0x00000002, 0, 0, 0, 0] := by
  decide +kernel

/-- Vector F4: MAX_ARGS words fill FRAME_OUT. -/
theorem test_frame_four :
    (nextOf (step (issued 0x40040202 (withInputs [0x0000, 0xFFFF, 0xBEEF, 0xFF00] [])))).map
      (fun t => (t.status.word, t.outLen, t.mem.frameOut.map Prod.snd)) =
    some (0x00001004, 14, [0x02, 0x02, 0x00, 0x00, 0x81, 0xFF, 0xFF, 0xAC, 0xBE, 0xEF, 0x92, 0xFF, 0x00, 0x00]) := by
  decide +kernel

/-- Vectors F5 (k above MAX_ARGS) and F7 (ARG_IN[0] never written). -/
theorem test_frame_over_and_unwritten :
    registersOf (step (issued 0x40050010 fresh)) = some [0x00001338, 0, 0, 0, 0] ∧
    refusalOf (step (issued 0x40010010 fresh)) = some .unwrittenInputRead := by decide +kernel

/-- Vector D3: the third group fails. -/
theorem test_decode_mismatch :
    registersOf (step (issued 0x80030009
      (withInputs [] [0x00, 0x01, 0xB0, 0x12, 0x34, 0x37, 0xBE, 0xEF, 0x93]))) =
    some [0x00002018, 0, 0, 0x00939202, 0] := by decide +kernel

/-- Vector D1, and vector D9 (a length above MAX_RAW is a length error, nothing is read). -/
theorem test_decode_word_and_length :
    (nextOf (step (issued 0x80010003 (withInputs [] [0x00, 0x01, 0xB0])))).map
      (fun t => (t.status.word, t.outLen, t.mem.wordsOut)) = some (0x00002006, 1, [(0, 0x0001)]) ∧
    registersOf (step (issued 0x80140064 fresh)) = some [0x00002028, 0, 0, 0, 0x0064003C] := by decide +kernel

/-- Vectors I1 and I4: RESERVED_OP with its OP recorded, and RESERVED_BITS judged before the capacity. -/
theorem test_illegal : registersOf (step (issued 0xC0000000 fresh)) = some [0x00003138, 0, 0, 0, 0] ∧
    registersOf (step (issued 0x81150000 fresh)) = some [0x00002238, 0, 0, 0, 0] := by decide +kernel

/-! ## The host's accesses -/

/-- Vectors H1 to H3 and H8. -/
theorem test_hazards :
    refusalOf (hostAccess (.writeReg 0 0) busyBlock) = some .descWriteWhileBusy ∧
    refusalOf (hostAccess (.argWrite 0 1) busyBlock) = some .inputWriteWhileBusy ∧
    refusalOf (hostAccess (.readReg 2) busyBlock) = some .resultReadWhileBusy ∧
    refusalOf (hostAccess (.argWrite 4 0) fresh) = some .indexOutOfRange := by decide

/-- The state of vector F2, `00 10 03 00 AC` in FRAME_OUT. -/
def afterF2 : State := complete 0b01#2 (.frame [0x00, 0x10, 0x03, 0x00, 0xAC]) fresh

/-- The state of vector D11, `0xFF00` in WORDS_OUT. -/
def afterD11 : State := complete 0b10#2 (.words [0xFF00]) fresh

/-- After F2, FRAME_OUT[4] is readable and FRAME_OUT[5] is not (H4). -/
theorem test_frameRead :
    (nextOf (hostAccess (.frameRead 4) afterF2)).map (fun t => t.hostReads) = some [.byte 0xAC] ∧
    refusalOf (hostAccess (.frameRead 5) afterF2) = some .outputReadUndefined := by decide +kernel

/-- Vector H7: STATUS while busy reads BUSY = 1 with the previous result fields. -/
theorem test_status_while_busy :
    (nextOf (hostAccess (.readReg 1) (issue 0 afterF2))).map (fun t => t.hostReads) = some [.reg 0x00001005] := by
  decide +kernel

/-- WAIT stays while BUSY = 1 and goes on when BUSY = 0 (R81). -/
theorem test_wait : queueAfter true [.wait, .readReg 1] = [.wait, .readReg 1] ∧
    queueAfter false [.wait, .readReg 1] = [.readReg 1] := by decide

/-- A reset keeps the ghost mark and clears the written bits (R176, R200). -/
theorem test_reset : (resetStep (withInputs [1] [2]).markRefused).refused = true ∧
    (resetStep (withInputs [1] [2])).mem = Memory.reset := by decide

/-- A refused step sets the ghost mark (R176). -/
theorem test_mark : (stepMarked (issued 0x40010010 fresh)).refused = true := by decide +kernel

/-! ## The assembler (R81, R82, program P1) -/

theorem test_assemble_p1 : assembleText "WRARG 0, 0x0300\nFRAME 0x0010, 1 ; DESC\nWAIT\nRDREG OUT_LEN".toList =
    some [.argWrite 0 0x0300, .writeReg 0 0x40010010, .wait, .readReg 3] := by decide +kernel

theorem test_assemble_pseudo :
    assembleText "FRAME_START_INT\nCHECK_READY 3\nWRRAW 0, 03 00 AC".toList =
      some [.argWrite 0 0x0500, .writeReg 0 0x40010010, .writeReg 0 0x80010003,
        .rawWrite 0 0x03, .rawWrite 1 0x00, .rawWrite 2 0xAC] ∧
    assembleText "FRAME 0x0010".toList = none := by decide +kernel

/-- The frames of the five commands (R125) and of the integer layout (vector F3). -/
theorem test_command_frames :
    buildFrame SensorCommand.startMeasurement.code [formatSelector .float] = [0x00, 0x10, 0x03, 0x00, 0xAC] ∧
    buildFrame SensorCommand.startMeasurement.code [formatSelector .integer] = [0x00, 0x10, 0x05, 0x00, 0xF6] ∧
    buildFrame SensorCommand.stopMeasurement.code [] = [0x01, 0x04] ∧
    buildFrame SensorCommand.readDataReady.code [] = [0x02, 0x02] ∧
    buildFrame SensorCommand.readMeasuredValues.code [] = [0x03, 0x00] ∧
    buildFrame SensorCommand.enterCleaning.code [] = [0x10, 0x04] := by decide +kernel

/-! ## Witnesses: for each statement with hypotheses, a state and operands that meet them together -/

/-- Response bytes as a function of their index. -/
def bytes (bs : List Byte) (j : Nat) : Byte := bs.getD j 0

/-- Argument words as a function of their index. -/
def words (ws : List Word) (i : Nat) : Word := ws.getD i 0

theorem witness_EncodeOfDecode : decodeDesc 0x40FFFFFF#32 = .ok (.frame 0xFF 0xFFFF) := by decide

theorem witness_OperandAssembly :
    decodeDesc 0x0000FFFF#32 = .ok (.crc8 0xFFFF) ∧ decodeDesc 0x40FF0104#32 = .ok (.frame 0xFF 0x0104) ∧
    decodeDesc 0x80FFFFFF#32 = .ok (.decode 0xFF 0xFFFF) := by decide

theorem witness_engineReady (d : Reg) (s : State) : (issued d s).EngineReady := ⟨rfl, rfl⟩

/-- One descriptor for each clause of IllegalDescriptorsComplete, each at the least value that its clause names. -/
theorem witness_IllegalDescriptorsComplete :
    opField (issued 0xC0000000 fresh).req = 3#2 ∧
    (opField (issued 0x81000000 fresh).req ≠ 3#2 ∧ rsvField (issued 0x81000000 fresh).req ≠ 0#6) ∧
    (opField (issued 0x00010000 fresh).req = 0#2 ∧ rsvField (issued 0x00010000 fresh).req = 0#6 ∧
      countField (issued 0x00010000 fresh).req ≠ 0#8) ∧
    (opField (issued 0x40050000 fresh).req = 1#2 ∧ rsvField (issued 0x40050000 fresh).req = 0#6 ∧
      fresh.caps.maxArgs < (countField (issued 0x40050000 fresh).req).toNat) ∧
    (opField (issued 0x80150000 fresh).req = 2#2 ∧ rsvField (issued 0x80150000 fresh).req = 0#6 ∧
      fresh.caps.maxGroups < (countField (issued 0x80150000 fresh).req).toNat) := by decide

theorem witness_IllFormedOperationsIllegal : Instr.wellFormed fresh.caps (.frame 5 0) = false ∧
    Instr.wellFormed fresh.caps (.decode 21 63) = false := by decide

theorem witness_FrameLayout : ([0x0300, 0x0500] : List Word)[1]? = some 0x0500 := by decide

theorem witness_FrameCompletes :
    (4 : Byte).toNat ≤ (withInputs [1, 2, 3, 4] []).caps.maxArgs ∧
    ∀ i < (4 : Byte).toNat, Buffer.get (withInputs [1, 2, 3, 4] []).mem.argIn i = some (words [1, 2, 3, 4] i) := by decide

theorem witness_DecodeCompletes :
    (2 : Byte).toNat ≤ (withInputs [] [0, 1, 0xB0, 0xFF, 0, 0]).caps.maxGroups ∧ (6 : Word).toNat = 3 * (2 : Byte).toNat ∧
    (∀ j < (6 : Word).toNat, Buffer.get (withInputs [] [0, 1, 0xB0, 0xFF, 0, 0]).mem.rawIn j =
      some (bytes [0, 1, 0xB0, 0xFF, 0, 0] j)) ∧
    ∀ g < (2 : Byte).toNat, crc8Word (bytes [0, 1, 0xB0, 0xFF, 0, 0] (3 * g)) (bytes [0, 1, 0xB0, 0xFF, 0, 0] (3 * g + 1)) =
      bytes [0, 1, 0xB0, 0xFF, 0, 0] (3 * g + 2) := by decide +kernel

theorem witness_LengthCheckComesFirst :
    (20 : Byte).toNat ≤ fresh.caps.maxGroups ∧ (61 : Word).toNat ≠ 3 * (20 : Byte).toNat := by decide

/-- The second of two groups is the first invalid one. -/
theorem witness_FirstInvalidGroupReported :
    (2 : Byte).toNat ≤ (withInputs [] [0, 1, 0xB0, 0, 0, 0]).caps.maxGroups ∧ (6 : Word).toNat = 3 * (2 : Byte).toNat ∧
    (∀ j < (6 : Word).toNat, Buffer.get (withInputs [] [0, 1, 0xB0, 0, 0, 0]).mem.rawIn j =
      some (bytes [0, 1, 0xB0, 0, 0, 0] j)) ∧ 1 < (2 : Byte).toNat ∧
    (∀ h < 1, crc8Word (bytes [0, 1, 0xB0, 0, 0, 0] (3 * h)) (bytes [0, 1, 0xB0, 0, 0, 0] (3 * h + 1)) =
      bytes [0, 1, 0xB0, 0, 0, 0] (3 * h + 2)) ∧
    crc8Word (bytes [0, 1, 0xB0, 0, 0, 0] (3 * 1)) (bytes [0, 1, 0xB0, 0, 0, 0] (3 * 1 + 1)) ≠
      bytes [0, 1, 0xB0, 0, 0, 0] (3 * 1 + 2) := by decide +kernel

theorem witness_MachineRoundTrip : ∃ t, exec (.frame 1 0x0010) (withInputs [0x0300] []) = .next t ∧
    t.status.resultKind = some .frame ∧ (1 : Byte).toNat ≤ (withInputs [] [0x03, 0x00, 0xAC]).caps.maxGroups ∧
    (3 : Word).toNat = 3 * (1 : Byte).toNat ∧
    ∀ j < (3 : Word).toNat, Buffer.get (withInputs [] [0x03, 0x00, 0xAC]).mem.rawIn j = Buffer.get t.mem.frameOut (2 + j) :=
  ⟨_, rfl, rfl, by decide, by decide, by decide +kernel⟩

/-- Group 1 of two valid groups with its checksum byte changed. -/
theorem witness_CorruptedGroupIndexReported :
    (2 : Byte).toNat ≤ (withInputs [] [0, 1, 0xB0, 0xFF, 0, 9]).caps.maxGroups ∧ (6 : Word).toNat = 3 * (2 : Byte).toNat ∧
    (∀ g < (2 : Byte).toNat, crc8Word (bytes [0, 1, 0xB0, 0xFF, 0, 0] (3 * g)) (bytes [0, 1, 0xB0, 0xFF, 0, 0] (3 * g + 1)) =
      bytes [0, 1, 0xB0, 0xFF, 0, 0] (3 * g + 2)) ∧ 1 < (2 : Byte).toNat ∧
    (∀ j < 3 * 1, bytes [0, 1, 0xB0, 0xFF, 0, 9] j = bytes [0, 1, 0xB0, 0xFF, 0, 0] j) ∧
    bytes [0, 1, 0xB0, 0xFF, 0, 9] (3 * 1 + 2) ≠ bytes [0, 1, 0xB0, 0xFF, 0, 0] (3 * 1 + 2) ∧
    (∀ q < 3, q ≠ 2 → bytes [0, 1, 0xB0, 0xFF, 0, 9] (3 * 1 + q) = bytes [0, 1, 0xB0, 0xFF, 0, 0] (3 * 1 + q)) ∧
    ∀ j < (6 : Word).toNat, Buffer.get (withInputs [] [0, 1, 0xB0, 0xFF, 0, 9]).mem.rawIn j =
      some (bytes [0, 1, 0xB0, 0xFF, 0, 9] j) := by decide +kernel

/-- Sixty bytes, all of RAW_IN for MAX_GROUPS = 20. -/
def fullRaw : List Byte := List.replicate 60 0

/-- The rows of DecodeCornerCases with hypotheses: n = 0 with L = 1, L not a multiple of 3, L just above MAX_RAW, a valid group
and a changed byte, and n = MAX_GROUPS with L = MAX_RAW, all written and with none written. -/
theorem witness_DecodeCornerCases : (1 : Word) ≠ 0 ∧
    ((20 : Byte).toNat ≤ fresh.caps.maxGroups ∧ (61 : Word).toNat % 3 ≠ 0 ∧ fresh.caps.maxRaw < (61 : Word).toNat) ∧
    (decodeGroups [0x00, 0x01, 0xB0] 1 = .ok [joinBytes 0x00 0x01] ∧ (0xFF : Byte) ≠ 0x00 ∧ (0x00 : Byte) ≠ 0x01) ∧
    ((20 : Byte).toNat = (withInputs [] fullRaw).caps.maxGroups ∧ (60 : Word).toNat = (withInputs [] fullRaw).caps.maxRaw ∧
      ∀ j < (withInputs [] fullRaw).caps.maxRaw, Buffer.written (withInputs [] fullRaw).mem.rawIn j = true) ∧
    ((20 : Byte).toNat = fresh.caps.maxGroups ∧ (60 : Word).toNat = fresh.caps.maxRaw ∧
      ∃ j < fresh.caps.maxRaw, Buffer.written fresh.mem.rawIn j = false) :=
  ⟨by decide, by decide, by decide +kernel, by decide +kernel, by decide, by decide, 59, by decide, by decide⟩

/-- One witness for each clause of UnwrittenInputReadsRefused, the last index of its range where it names one. -/
theorem witness_UnwrittenInputReadsRefused :
    (∃ t, hostAccess (.argWrite 3 7) fresh = .next t) ∧ (∃ t, hostAccess (.rawWrite 59 7) fresh = .next t) ∧
    (3 < fresh.caps.maxArgs ∧ Buffer.written fresh.mem.argIn 3 = false) ∧
    (59 < fresh.caps.maxRaw ∧ Buffer.written fresh.mem.rawIn 59 = false) ∧
    ((4 : Byte).toNat ≤ (withInputs [1, 2, 3] []).caps.maxArgs ∧
      ∃ i < (4 : Byte).toNat, Buffer.written (withInputs [1, 2, 3] []).mem.argIn i = false) ∧
    ((1 : Byte).toNat ≤ (withInputs [] [1, 2]).caps.maxGroups ∧ (3 : Word).toNat = 3 * (1 : Byte).toNat ∧
      ∃ j < (3 : Word).toNat, Buffer.written (withInputs [] [1, 2]).mem.rawIn j = false) :=
  ⟨⟨_, rfl⟩, ⟨_, rfl⟩, by decide, by decide, ⟨by decide, 3, by decide, by decide⟩, by decide, by decide, 2, by decide, by decide⟩

/-- CompletesIffInputsWritten says something both ways: an operation whose inputs are written, and one whose are not. -/
theorem witness_CompletesIffInputsWritten :
    (withInputs [1, 2, 3, 4] []).InputsWritten (.frame 4 0x0010) ∧ ¬ fresh.InputsWritten (.frame 1 0x0010) :=
  ⟨fun _ => by decide, fun h => absurd (h (by decide) 0 (by decide)) (by decide)⟩

/-- Two blocks with different pasts that perform the same descriptor. -/
theorem witness_CompletionIsPureFunction :
    (issued 0x00000000 fresh).EngineReady ∧ (issued 0x00000000 afterF2).EngineReady ∧
    (issued 0x00000000 fresh).req = (issued 0x00000000 afterF2).req ∧ fresh.caps = afterF2.caps ∧
    fresh.mem.argIn = afterF2.mem.argIn ∧ fresh.mem.rawIn = afterF2.mem.rawIn ∧
    ∃ t, step (issued 0x00000000 fresh) = .next t :=
  ⟨⟨rfl, rfl⟩, ⟨rfl, rfl⟩, rfl, rfl, rfl, rfl, _, rfl⟩

theorem witness_StepRunsDecodedOperation : (issued 0x40000104 fresh).EngineReady ∧
    decodeDesc (issued 0x40000104 fresh).req = .ok (.frame 0 0x0104) ∧
    decodeTableWord 32 0x40000104 = some (.frame 0 0x0104) := ⟨⟨rfl, rfl⟩, by decide, by decide⟩

/-- A block whose host has an access to make. -/
def hostNext (a : HostAccess) (s : State) : State := { s with hostQueue := [a], turns := [.host] }

theorem witness_HostTurnPerformsAccess : (hostNext .wait busyBlock).agent = .host ∧
    (hostNext .wait busyBlock).hostQueue = .wait :: [] := ⟨rfl, rfl⟩

theorem witness_IssueSetsBusyOnly : (hostNext (.writeReg 0 0xFFFFFFFF) afterF2).agent = .host ∧
    (hostNext (.writeReg 0 0xFFFFFFFF) afterF2).hostQueue = .writeReg 0 0xFFFFFFFF :: [] ∧
    (hostNext (.writeReg 0 0xFFFFFFFF) afterF2).status.busy = false := ⟨rfl, rfl, rfl⟩

theorem witness_EngineCompletesExactlyWhenBusy :
    (Turn.engine = State.agent { fresh with turns := [.engine] } ∧ fresh.status.busy = false) ∧
    ((issued 0 fresh).agent = .engine ∧ (issued 0 fresh).status.busy = true) := ⟨⟨rfl, rfl⟩, rfl, rfl⟩

/-- One host turn, a poll of STATUS, then the completion. -/
theorem witness_IssuedOperationCompletes :
    (State.status { busyBlock with hostQueue := [.wait], turns := [.host] }).busy = true ∧
    State.turns { busyBlock with hostQueue := [.wait], turns := [.host] } = List.replicate 1 .host ∧
    ∃ t, StepsTo (1 + 1) { busyBlock with hostQueue := [.wait], turns := [.host] } t := ⟨rfl, rfl, _, _, rfl, _, rfl, rfl⟩

theorem witness_WaitEnds : State.hostQueue { busyBlock with hostQueue := [.wait, .readReg 2] } = [.wait, .readReg 2] ∧
    State.turns { busyBlock with hostQueue := [.wait, .readReg 2] } = [] ∧ busyBlock.status.busy = true ∧
    ∃ t, step { busyBlock with hostQueue := [.wait, .readReg 2] } = .next t := ⟨rfl, rfl, rfl, _, rfl⟩

theorem witness_busy : busyBlock.status.busy = true ∧ fresh.status.busy = false := ⟨rfl, rfl⟩

/-- A busy block whose last input entries are written. -/
def busyWritten : State := issue 0 { withInputs [] fullRaw with mem := { fresh.mem with argIn := [(3, 7)], rawIn := [(59, 9)] } }

/-- Each clause of ReadsWhileBusy and InputWritesOnlyWhileIdle at the last index of its range. -/
theorem witness_ReadsWhileBusy : busyWritten.status.busy = true ∧ 13 < busyWritten.caps.maxFrame ∧
    19 < busyWritten.caps.maxGroups ∧
    (3 < busyWritten.caps.maxArgs ∧ Buffer.get busyWritten.mem.argIn 3 = some 7) ∧
    (59 < busyWritten.caps.maxRaw ∧ Buffer.get busyWritten.mem.rawIn 59 = some 9) := by decide

/-- The invariants hold after F2 and after D11. -/
theorem afterF2_inv : afterF2.Inv where
  errorKind := by decide
  causeKind := by decide
  crcKind := by decide
  lenKind := by decide
  csumKind := by decide
  errLenKind := by decide
  frameLen := fun _ => ⟨1, by decide, by decide⟩
  wordsLen := by decide
  reservedBits := by decide
  reqDesc := by decide
  frameHeld := by decide
  wordsHeld := by decide
  memWf := by decide
  memRange := by decide
  capsOk := by decide

theorem afterD11_inv : afterD11.Inv where
  errorKind := by decide
  causeKind := by decide
  crcKind := by decide
  lenKind := by decide
  csumKind := by decide
  errLenKind := by decide
  frameLen := by intro h; cases h
  wordsLen := by decide
  reservedBits := by decide
  reqDesc := by decide
  frameHeld := by decide
  wordsHeld := by decide
  memWf := by decide
  memRange := by decide
  capsOk := by decide

/-- FRAME_OUT[4] is the last defined byte and FRAME_OUT[5] the first undefined one after F2, and likewise the words after D11. -/
theorem witness_OutputReadsDefinedExactly : afterF2.Inv ∧ afterF2.status.busy = false ∧ 5 < afterF2.caps.maxFrame ∧
    afterF2.status.resultKind = some .frame ∧ 4 < afterF2.outLen.toNat ∧ ¬ 5 < afterF2.outLen.toNat ∧
    afterD11.Inv ∧ afterD11.status.busy = false ∧ 1 < afterD11.caps.maxGroups ∧
    afterD11.status.resultKind = some .words ∧ 0 < afterD11.outLen.toNat ∧ ¬ 1 < afterD11.outLen.toNat :=
  ⟨afterF2_inv, rfl, by decide, rfl, by decide, by decide, afterD11_inv, rfl, by decide, rfl, by decide, by decide⟩

/-- The least index out of range of each port. -/
theorem witness_IndexOutOfRangeRefused : fresh.caps.maxArgs ≤ 4 ∧ 3 * fresh.caps.maxGroups ≤ 60 ∧
    2 + 3 * fresh.caps.maxArgs ≤ 14 ∧ fresh.caps.maxGroups ≤ 20 := by decide

theorem witness_ReadOnlyRegisterWritesIgnored : (1 : Nat) ≠ 0 ∧ (6 : Nat) ≠ 0 := by decide

/-- RegisterReadsReturnFields on a block with every result register filled, reserved bits included: each register number and
the least reserved one. -/
theorem witness_RegisterReadsReturnFields :
    (State.status { fresh with crcOut := 0xFFFFFFFF, outLen := 0xFFFFFFFF, errCsum := 0xFFFFFFFF }).busy = false ∧
    ([0, 1, 2, 3, 4, 5, 6] : List Nat).Nodup := by decide

theorem witness_ReadsHaveNoSideEffect : HostAccess.isRead (.frameRead 4) = true ∧
    ∃ t, hostAccess (.frameRead 4) afterF2 = .next t := ⟨rfl, _, rfl⟩

theorem witness_ResetInEveryState : State.turns { busyBlock with turns := [.reset, .engine] } = .reset :: [.engine] := rfl

theorem witness_ResetAbandonsOperation : ∃ u, exec (.crc8 0xBEEF) busyBlock = .next u := ⟨_, rfl⟩

theorem witness_InvariantKept : afterF2.Inv ∧ ∃ t, step (hostNext (.writeReg 0 5) afterF2) = .next t ∧
    (hostNext (.writeReg 0 5) afterF2).status = afterF2.status := ⟨afterF2_inv, _, rfl, rfl⟩

theorem witness_InvariantAtReset : caps.Ok := by decide

theorem witness_HostNeverWritesResults : (hostNext (.writeReg 0 5) afterF2).agent = .host ∧
    ∃ t, step (hostNext (.writeReg 0 5) afterF2) = .next t := ⟨rfl, _, rfl⟩

theorem witness_EngineNeverWritesInputs : (issued 0xBEEF fresh).agent = .engine ∧
    ∃ t, step (issued 0xBEEF fresh) = .next t := ⟨rfl, _, rfl⟩

/-- Adding a pending access and a turn does not touch the invariants. -/
theorem hostNext_inv (a : HostAccess) {s : State} (h : s.Inv) : (hostNext a s).Inv :=
  ⟨h.errorKind, h.causeKind, h.crcKind, h.lenKind, h.csumKind, h.errLenKind, h.frameLen, h.wordsLen, h.reservedBits,
    h.reqDesc, h.frameHeld, h.wordsHeld, h.memWf, h.memRange, h.capsOk⟩

/-- Every reason of the closed list is given by some step; the two reads of output entries at the least undefined index, in
states that meet the invariants. -/
theorem witness_RefusalsAreTheClosedList :
    (hostNext (.frameRead 5) afterF2).Inv ∧ (hostNext (.wordsRead 1) afterD11).Inv ∧
    step (hostNext (.wordsRead 1) afterD11) = .refused .outputReadUndefined ∧
    step (issued 0x40010010 fresh) = .refused .unwrittenInputRead ∧
    step (hostNext (.writeReg 0 0) busyBlock) = .refused .descWriteWhileBusy ∧
    step (hostNext (.rawWrite 0 0) busyBlock) = .refused .inputWriteWhileBusy ∧
    step (hostNext (.wordsRead 19) busyBlock) = .refused .resultReadWhileBusy ∧
    step (hostNext (.frameRead 5) afterF2) = .refused .outputReadUndefined ∧
    step (hostNext (.argRead 3) fresh) = .refused .unwrittenInputRead ∧
    step (hostNext (.wordsRead 20) fresh) = .refused .indexOutOfRange :=
  ⟨hostNext_inv _ afterF2_inv, hostNext_inv _ afterD11_inv, rfl, rfl, rfl, rfl, rfl, rfl, rfl, rfl⟩

theorem witness_RefusedMarkNeverCleared : step (hostNext (.argRead 3) fresh) = .refused .unwrittenInputRead ∧
    fresh.markRefused.refused = true ∧ ∃ t, step (hostNext (.readReg 0) fresh.markRefused) = .next t :=
  ⟨rfl, rfl, _, rfl⟩

/-- Two blocks the host cannot tell apart: they differ in ACC, the position, REQ while idle, the counter of free values and a
FRAME_OUT entry above OUT_LEN. -/
theorem witness_HostSeesNoInternalState : HostEq afterF2
    { afterF2 with
      req := 9, acc := 1, pos := 7, fresh := 3
      mem := { afterF2.mem with frameOut := Buffer.set afterF2.mem.frameOut 5 0xEE } } where
  caps := rfl
  desc := rfl
  status := rfl
  crcOut := rfl
  outLen := rfl
  errCsum := rfl
  errLen := rfl
  argIn := rfl
  rawIn := rfl
  refused := rfl
  hostQueue := rfl
  turns := rfl
  hostReads := rfl
  req := by intro h; cases h
  frameOut := fun _ _ => by decide
  wordsOut := by intro _ h; cases h

end Sys2Proof.Tests.Slice0
end

section
/-!
The host's issue (10_state.md R34) and the values after reset (R37): what a write of DESC and a read of an output buffer answer,
and the statements O29 and O44.
-/

namespace Sys2Proof.Machine

/-- Only WAIT can stay at the head of the host's accesses (30_encoding.md R81). -/
theorem queueAfter_cons_of_ne_wait {a : HostAccess} (busy : Bool) (rest : List HostAccess) (h : a ≠ .wait) :
    queueAfter busy (a :: rest) = rest := by
  simp [queueAfter, h]

theorem hostAccess_writeDesc_of_idle (v : Reg) {s : State} (h : s.status.busy = false) :
    hostAccess (.writeReg 0 v) s = .next (issue v s) := by
  simp [hostAccess, hostWriteReg, h]

/-- A read of FRAME_OUT answers only in the defined case of 20_memory.md R52, with the entry it names. -/
theorem hostAccess_frameRead_eq_next {j : Nat} {s t : State} (h : hostAccess (.frameRead j) s = .next t) :
    j < s.caps.maxFrame ∧ s.status.busy = false ∧ s.status.resultKind = some .frame ∧ j < s.outLen.toNat ∧
      ∃ b, Buffer.get s.mem.frameOut j = some b ∧ t = returnRead (.byte b) s := by
  simp only [hostAccess, hostFrameRead] at h
  split at h
  · cases h
  next hj =>
    split at h
    · cases h
    next hb =>
      split at h
      next hd =>
        split at h
        · cases h
        next b hg => cases h; exact ⟨by omega, by simpa using hb, hd.1, hd.2, b, hg, rfl⟩
      · cases h

/-- A read of WORDS_OUT answers only in the defined case of 20_memory.md R52, with the entry it names. -/
theorem hostAccess_wordsRead_eq_next {g : Nat} {s t : State} (h : hostAccess (.wordsRead g) s = .next t) :
    g < s.caps.maxGroups ∧ s.status.busy = false ∧ s.status.resultKind = some .words ∧ g < s.outLen.toNat ∧
      ∃ w, Buffer.get s.mem.wordsOut g = some w ∧ t = returnRead (.word w) s := by
  simp only [hostAccess, hostWordsRead] at h
  split at h
  · cases h
  next hg =>
    split at h
    · cases h
    next hb =>
      split at h
      next hd =>
        split at h
        · cases h
        next w hw => cases h; exact ⟨by omega, by simpa using hb, hd.1, hd.2, w, hw, rfl⟩
      · cases h

@[simp] theorem statusReset_word : Status.reset.word = 0 := by decide

/-- The reset values do not depend on the parameters of the block (R37). -/
theorem resetWith_resetValues (c : Capacity) : ResetValues (State.resetWith c) where
  desc := rfl
  statusFields := rfl
  statusWord := statusReset_word
  crcOut := rfl
  outLen := rfl
  errCsum := rfl
  errLen := rfl
  argUnwritten := fun _ => rfl
  rawUnwritten := fun _ => rfl

/-- No output read answers while RESULT_KIND = NONE, as it is after reset. -/
theorem frameRead_ne_next_of_noResult {s : State} (h : s.status.resultKind = none) (j : Nat) (t : State) :
    hostAccess (.frameRead j) s ≠ .next t := by
  intro ht
  obtain ⟨-, -, hk, -⟩ := hostAccess_frameRead_eq_next ht
  rw [h] at hk
  cases hk

theorem wordsRead_ne_next_of_noResult {s : State} (h : s.status.resultKind = none) (g : Nat) (t : State) :
    hostAccess (.wordsRead g) s ≠ .next t := by
  intro ht
  obtain ⟨-, -, hk, -⟩ := hostAccess_wordsRead_eq_next ht
  rw [h] at hk
  cases hk

end Sys2Proof.Machine

namespace Sys2Proof.Proofs

open Sys2Proof.Machine

/-- Settles O29: the host's turn spends the turn and the access, and the write of DESC is the issue of R34. -/
theorem issueSetsBusyOnly : Obligations.IssueSetsBusyOnly := by
  intro s v rest hagent hqueue hidle
  rw [step_of_host hagent hqueue, queueAfter_cons_of_ne_wait _ _ (by simp)]
  exact hostAccess_writeDesc_of_idle v hidle

/-- Settles O44: the reset values hold for every parameter value, and RESULT_KIND = NONE refuses every output read. -/
theorem resetStateValues : Obligations.ResetStateValues :=
  ⟨resetWith_resetValues Config.capacity, rfl, Config.capacity_ok, frameRead_ne_next_of_noResult rfl,
    wordsRead_ne_next_of_noResult rfl, resetStep_refused⟩

end Sys2Proof.Proofs
end

section
/-!
The input buffers as they are read (20_memory.md R50, R53): what a host write and a host read of ARG_IN and RAW_IN answer, what
MemRead answers of an unwritten entry, and the statement O24.
-/

namespace Sys2Proof.Machine

/-- The ghost bit of R32 is clear exactly where the entry holds no value. -/
theorem Buffer.written_eq_false_iff {w : Nat} {b : Buffer w} {i : Nat} :
    Buffer.written b i = false ↔ Buffer.get b i = none := by
  simp [Buffer.written]

theorem Buffer.memRead_zero_eq_none_of_unwritten {w n : Nat} {b : Buffer w}
    (h : ∃ i < n, Buffer.written b i = false) : Buffer.memRead b 0 n = none := by
  obtain ⟨i, hi, hw⟩ := h
  exact (Buffer.memRead_eq_none b n 0).2 ⟨i, hi, by simpa using Buffer.written_eq_false_iff.1 hw⟩

/-- A write of ARG_IN answers only within its range and while idle, and sets the one entry it names (R50, R211). -/
theorem hostAccess_argWrite_eq_next {i : Nat} {w : Word} {s t : State} (h : hostAccess (.argWrite i w) s = .next t) :
    i < s.caps.maxArgs ∧ s.status.busy = false ∧
      t = { s with mem := { s.mem with argIn := Buffer.set s.mem.argIn i w } } := by
  simp only [hostAccess, hostArgWrite] at h
  split at h
  · cases h
  next hi =>
    split at h
    · cases h
    next hb => cases h; exact ⟨by omega, by simpa using hb, rfl⟩

/-- A write of RAW_IN answers only within its range and while idle, and sets the one entry it names (R50, R211). -/
theorem hostAccess_rawWrite_eq_next {j : Nat} {b : Byte} {s t : State} (h : hostAccess (.rawWrite j b) s = .next t) :
    j < s.caps.maxRaw ∧ s.status.busy = false ∧
      t = { s with mem := { s.mem with rawIn := Buffer.set s.mem.rawIn j b } } := by
  simp only [hostAccess, hostRawWrite] at h
  split at h
  · cases h
  next hj =>
    split at h
    · cases h
    next hb => cases h; exact ⟨by omega, by simpa using hb, rfl⟩

theorem hostAccess_argRead_of_get {i : Nat} {w : Word} {s : State} (hi : i < s.caps.maxArgs)
    (hw : Buffer.get s.mem.argIn i = some w) : hostAccess (.argRead i) s = .next (returnRead (.word w) s) := by
  simp [hostAccess, hostArgRead, Nat.not_le.2 hi, hw]

theorem hostAccess_argRead_unwritten {i : Nat} {s : State} (hi : i < s.caps.maxArgs)
    (hw : Buffer.written s.mem.argIn i = false) : hostAccess (.argRead i) s = .refused .unwrittenInputRead := by
  simp [hostAccess, hostArgRead, Nat.not_le.2 hi, Buffer.written_eq_false_iff.1 hw]

theorem hostAccess_rawRead_of_get {j : Nat} {b : Byte} {s : State} (hj : j < s.caps.maxRaw)
    (hb : Buffer.get s.mem.rawIn j = some b) : hostAccess (.rawRead j) s = .next (returnRead (.byte b) s) := by
  simp [hostAccess, hostRawRead, Nat.not_le.2 hj, hb]

theorem hostAccess_rawRead_unwritten {j : Nat} {s : State} (hj : j < s.caps.maxRaw)
    (hw : Buffer.written s.mem.rawIn j = false) : hostAccess (.rawRead j) s = .refused .unwrittenInputRead := by
  simp [hostAccess, hostRawRead, Nat.not_le.2 hj, Buffer.written_eq_false_iff.1 hw]

/-- An ARG_IN entry reads back as the host last wrote it, and every other entry keeps what it held (R53). -/
theorem argRead_after_argWrite {i : Nat} {w : Word} {s t : State} (h : hostAccess (.argWrite i w) s = .next t) :
    hostAccess (.argRead i) t = .next (returnRead (.word w) t) ∧
      ∀ j ≠ i, Buffer.get t.mem.argIn j = Buffer.get s.mem.argIn j := by
  obtain ⟨hi, -, rfl⟩ := hostAccess_argWrite_eq_next h
  exact ⟨hostAccess_argRead_of_get hi (Buffer.get_set_self _ _ _), fun _ hj => Buffer.get_set_of_ne _ _ hj⟩

/-- A RAW_IN entry reads back as the host last wrote it, and every other entry keeps what it held (R53). -/
theorem rawRead_after_rawWrite {j : Nat} {b : Byte} {s t : State} (h : hostAccess (.rawWrite j b) s = .next t) :
    hostAccess (.rawRead j) t = .next (returnRead (.byte b) t) ∧
      ∀ k ≠ j, Buffer.get t.mem.rawIn k = Buffer.get s.mem.rawIn k := by
  obtain ⟨hj, -, rfl⟩ := hostAccess_rawWrite_eq_next h
  exact ⟨hostAccess_rawRead_of_get hj (Buffer.get_set_self _ _ _), fun _ hk => Buffer.get_set_of_ne _ _ hk⟩

end Sys2Proof.Machine

namespace Sys2Proof.Proofs

open Sys2Proof.Machine

/-- Settles O24: a write sets the one entry it names, and an unwritten entry gives the host's read and MemRead no value. -/
theorem unwrittenInputReadsRefused : Obligations.UnwrittenInputReadsRefused := by
  refine ⟨?argBack, ?rawBack, ?argHost, ?rawHost, ?frame, ?decode⟩
  case argBack => exact fun _ _ _ _ h => argRead_after_argWrite h
  case rawBack => exact fun _ _ _ _ h => rawRead_after_rawWrite h
  case argHost => exact fun _ _ hi hw => hostAccess_argRead_unwritten hi hw
  case rawHost => exact fun _ _ hj hw => hostAccess_rawRead_unwritten hj hw
  case frame =>
    exact fun _ _ cmd hk hw => exec_frame_unwritten cmd hk (Buffer.memRead_zero_eq_none_of_unwritten hw)
  case decode =>
    exact fun _ _ _ hn hl hw => exec_decode_unwritten hn hl (Buffer.memRead_zero_eq_none_of_unwritten hw)

end Sys2Proof.Proofs
end

section
/-!
The bytes of a command frame (30_encoding.md R73, R74): which byte of a word group stands at which index, and the statement O15.
-/

namespace Sys2Proof.Machine

/-- Word groups have three bytes each, so group `i` begins at byte `3 * i` (R74). -/
theorem wordGroups_getElem?_of_lt {ws : List Word} {i : Nat} {w : Word} (hw : ws[i]? = some w) {r : Nat} (hr : r < 3) :
    (wordGroups ws)[3 * i + r]? = (wordGroup w)[r]? := by
  induction ws generalizing i with
  | nil => simp at hw
  | cons v ws ih =>
    cases i with
    | zero =>
      obtain rfl : v = w := by simpa using hw
      simpa [wordGroups] using List.getElem?_append_left (l₂ := wordGroups ws) (show r < (wordGroup v).length from hr)
    | succ i =>
      have hskip : (wordGroups (v :: ws))[3 * (i + 1) + r]? = (wordGroups ws)[3 * i + r]? := by
        rw [show 3 * (i + 1) + r = 3 * i + r + 3 by omega]
        rfl
      rw [hskip]
      exact ih (by simpa using hw)

/-- The argument words' groups follow the two bytes of the command code (R73). -/
theorem buildFrame_getElem?_of_lt (cmd : Word) {a : List Word} {i : Nat} {w : Word} (hw : a[i]? = some w) {r : Nat}
    (hr : r < 3) : (buildFrame cmd a)[2 + r + 3 * i]? = (wordGroup w)[r]? := by
  rw [← wordGroups_getElem?_of_lt hw hr, show 2 + r + 3 * i = 3 * i + r + 2 by omega]
  rfl

end Sys2Proof.Machine

namespace Sys2Proof.Proofs

open Sys2Proof.Machine

/-- Settles O15: two bytes of the command code, then bytes 0, 1 and 2 of each argument word's group. -/
theorem frameLayout : Obligations.FrameLayout := by
  intro cmd a
  refine ⟨buildFrame_length cmd a, rfl, rfl, fun i w hw => ⟨?high, ?low, ?checksum⟩⟩
  case high => exact buildFrame_getElem?_of_lt cmd hw (r := 0) (by decide)
  case low => exact buildFrame_getElem?_of_lt cmd hw (r := 1) (by decide)
  case checksum => exact buildFrame_getElem?_of_lt cmd hw (r := 2) (by decide)

end Sys2Proof.Proofs
end

section
/-!
The bit step and the byte table of the checksum (40_crc8.md R100, R106): the bit step on numbers, why it loses no information,
the table as the list of eight bit steps from each byte, and the statements O8 and O9.
-/

namespace Sys2Proof.Machine

/-- The bit shifted out of position 7 is lost by a reduction mod 256 before the XOR as well as by one after it (R100). -/
theorem crc8Bit_toNat (acc : Byte) : (crc8Bit acc).toNat =
    if acc.getLsbD 7 then ((acc.toNat <<< 1) ^^^ 0x31) % 256 else (acc.toNat <<< 1) % 256 := by
  have hmask : ((acc.toNat <<< 1) ^^^ 0x31) % 256 = (acc.toNat <<< 1) % 256 ^^^ 0x31 :=
    Nat.xor_mod_two_pow (n := 8)
  rw [hmask, crc8Bit, BitVec.msb_eq_getLsbD_last]
  split <;> simp [BitVec.toNat_shiftLeft]

/-- The constant `0x31` is odd, so the bit shifted out at position 7 comes back at position 0. -/
theorem crc8Bit_getLsbD_zero (acc : Byte) : (crc8Bit acc).getLsbD 0 = acc.msb := by
  rw [crc8Bit]
  split <;> simp [*]

/-- A shift by one loses the top bit alone. -/
theorem eq_of_shiftLeft_one_eq {a b : Byte} (hmsb : a.msb = b.msb) (hshift : a <<< 1 = b <<< 1) : a = b := by
  ext i hi
  obtain rfl | hlow : i = 7 ∨ i + 1 < 8 := by omega
  · simpa [BitVec.msb_eq_getLsbD_last] using hmsb
  · have hbit := congrArg (fun v : Byte => v.getLsbD (i + 1)) hshift
    simpa [BitVec.getLsbD_shiftLeft, hlow] using hbit

theorem crc8Bit_injective : Function.Injective crc8Bit := by
  intro a b h
  have hmsb : a.msb = b.msb := by rw [← crc8Bit_getLsbD_zero, h, crc8Bit_getLsbD_zero]
  refine eq_of_shiftLeft_one_eq hmsb ?_
  rw [crc8Bit, crc8Bit, ← hmsb] at h
  split at h
  · exact (BitVec.xor_left_inj _).1 h
  · exact h

theorem crc8Bits_injective (n : Nat) : Function.Injective (crc8Bits n) := by
  induction n with
  | zero => exact Function.injective_id
  | succ n ih => exact ih.comp crc8Bit_injective

/-- The printed rows of R106, read in order, are eight bit steps from 0, 1, ..., 255. -/
theorem crcTable_eq_map : crcTable = (List.range 256).map fun x => crc8Bits 8 (BitVec.ofNat 8 x) := by
  decide +kernel

theorem crcTableAt_eq_crc8Bits (x : Byte) : crcTableAt x = crc8Bits 8 x := by
  simp [crcTableAt, crcTable_eq_map, x.isLt]

/-- A byte step looks up the byte XORed into the accumulator (R101, R106). -/
theorem crc8Byte_eq_crcTableAt (acc b : Byte) : crc8Byte acc b = crcTableAt (acc ^^^ b) :=
  (crcTableAt_eq_crc8Bits _).symm

theorem crc8Word_eq_crcTableAt (b0 b1 : Byte) :
    crc8Word b0 b1 = crcTableAt (crcTableAt (0xFF#8 ^^^ b0) ^^^ b1) := by
  rw [crc8Word, crc8Byte_eq_crcTableAt, crc8Byte_eq_crcTableAt]

/-- No bit step loses information and there are finitely many bytes, so the table is a permutation (R106). -/
theorem crcTableAt_bijective : Function.Bijective crcTableAt := by
  have hfinite : Finite Byte := .of_equiv _ BitVec.equivFin.symm.toEquiv
  have hinjective : Function.Injective crcTableAt := by
    rw [funext crcTableAt_eq_crc8Bits]
    exact crc8Bits_injective 8
  exact Finite.injective_iff_bijective.1 hinjective

end Sys2Proof.Machine

namespace Sys2Proof.Proofs

open Sys2Proof.Machine

/-- Settles O8: the reduction mod 256 may stand before or after the XOR, since `0x31 < 256`. -/
theorem bitStepShiftsAndXors : Obligations.BitStepShiftsAndXors := crc8Bit_toNat

/-- Settles O9: the table is checked entry by entry, and it is a permutation because the bit step is injective. -/
theorem byteTableGivesChecksum : Obligations.ByteTableGivesChecksum :=
  ⟨crcTableAt_eq_crc8Bits, crc8Byte_eq_crcTableAt, crc8Word_eq_crcTableAt, crcTableAt_bijective⟩

end Sys2Proof.Proofs
end

section
/-!
The FRAME operation and the way back (41_frame.md R121, R122, R124): the frame that lands in FRAME_OUT, entry by entry, the
word groups as a valid response, and the statements O16 and O20.
-/

namespace Sys2Proof.Machine

/-- MemRead from index 0 over entries that hold `a 0, a 1, ...` returns those values in order. -/
theorem Buffer.memRead_zero_of_get {w n : Nat} {b : Buffer w} {a : Nat → BitVec w}
    (h : ∀ i < n, Buffer.get b i = some (a i)) : Buffer.memRead b 0 n = some ((List.range n).map a) := by
  refine (Buffer.memRead_eq_some b n 0 _).2 ⟨by simp, fun i hi => ?_⟩
  rw [Nat.zero_add, h i hi, List.getElem?_map, List.getElem?_range hi]
  rfl

/-- After MemWrite from index 0, an entry below the number of values written holds its value. -/
theorem Buffer.get_memWrite_zero_of_getElem? {w : Nat} {vs : List (BitVec w)} {j : Nat} {v : BitVec w} (b : Buffer w)
    (h : vs[j]? = some v) : Buffer.get (Buffer.memWrite b 0 vs) j = some v := by
  obtain ⟨hj, -⟩ := List.getElem?_eq_some_iff.1 h
  rw [Buffer.get_memWrite, if_pos (by omega), Nat.sub_zero, h]

/-- MemWrite from index 0 leaves the entries above the values written as they were. -/
theorem Buffer.get_memWrite_zero_of_length_le {w : Nat} {vs : List (BitVec w)} {j : Nat} (b : Buffer w)
    (h : vs.length ≤ j) : Buffer.get (Buffer.memWrite b 0 vs) j = Buffer.get b j := by
  rw [Buffer.get_memWrite, if_neg (by omega)]

/-- A legal FRAME completes with the frame of the argument words ARG_IN holds (R121). -/
theorem exec_frame_of_get {s : State} {k : Byte} {a : Nat → Word} (cmd : Word) (hk : k.toNat ≤ s.caps.maxArgs)
    (ha : ∀ i < k.toNat, Buffer.get s.mem.argIn i = some (a i)) :
    exec (.frame k cmd) s =
      .next (complete 0b01#2 (.frame (buildFrame cmd ((List.range k.toNat).map a))) s) :=
  exec_frame_of_read cmd hk (Buffer.memRead_zero_of_get ha)

/-- OUT_LEN holds the length of a frame unreduced: a frame of at most 255 argument words is far shorter than `2 ^ 32`
(R122). -/
theorem outLen_buildFrame_toNat (cmd : Word) {a : List Word} (h : a.length < 256) :
    (Result.outLen (.frame (buildFrame cmd a))).toNat = 2 + 3 * a.length := by
  rw [Result.outLen, buildFrame_length, BitVec.toNat_ofNat, Nat.mod_eq_of_lt (by omega)]

/-- A built word group carries its own checksum, so every group of the sequence passes and its bytes join to the word. -/
theorem checkGroups_wordGroups (g : Nat) (ws : List Word) : checkGroups g (wordGroups ws) = .ok ws := by
  induction ws generalizing g with
  | nil => rfl
  | cons w ws ih => simp [wordGroups, wordGroup, checkGroups, ih]

theorem decodeGroups_wordGroups (ws : List Word) : decodeGroups (wordGroups ws) ws.length = .ok ws := by
  rw [decodeGroups, if_neg (by simp), checkGroups_wordGroups]

theorem buildFrame_drop_two (cmd : Word) (a : List Word) : (buildFrame cmd a).drop 2 = wordGroups a := rfl

end Sys2Proof.Machine

namespace Sys2Proof.Proofs

open Sys2Proof.Machine

/-- Settles O16: the words read are the ones ARG_IN holds, and FRAME_OUT receives the bytes that the layout of O15 names. -/
theorem frameCompletes : Obligations.FrameCompletes := by
  intro s k cmd a hk ha
  obtain ⟨hlength, hcmdHigh, hcmdLow, hgroup⟩ := frameLayout cmd ((List.range k.toNat).map a)
  have hcount : ((List.range k.toNat).map a).length = k.toNat := by simp
  rw [hcount] at hlength
  refine ⟨_, exec_frame_of_get cmd hk ha, rfl, ?outLen, rfl, rfl, rfl, ?cmdHigh, ?cmdLow, ?args, ?above, rfl,
    complete_completionFrame _ _ _⟩
  case outLen => rw [complete_outLen, outLen_buildFrame_toNat cmd (by rw [hcount]; exact k.isLt), hcount]
  case cmdHigh => exact Buffer.get_memWrite_zero_of_getElem? _ hcmdHigh
  case cmdLow => exact Buffer.get_memWrite_zero_of_getElem? _ hcmdLow
  case args =>
    intro i hi
    obtain ⟨hhigh, hlow, hchecksum⟩ := hgroup i (a i) (by simp [hi])
    exact ⟨Buffer.get_memWrite_zero_of_getElem? _ hhigh, Buffer.get_memWrite_zero_of_getElem? _ hlow,
      Buffer.get_memWrite_zero_of_getElem? _ hchecksum⟩
  case above => exact fun j hj => Buffer.get_memWrite_zero_of_length_le _ (by rw [hlength]; exact hj)

/-- Settles O20: what follows the command code is the word groups of the arguments, each with a valid checksum. -/
theorem framerAgreesWithDecoder : Obligations.FramerAgreesWithDecoder := by
  intro cmd a
  rw [buildFrame_drop_two]
  exact decodeGroups_wordGroups a

end Sys2Proof.Proofs
end

section
/-!
The parser of a response (42_decode.md R140, R143): what it answers of a first group and the rest, then of the groups a function
gives byte by byte, and what a changed byte does to a group (40_crc8.md R107).
-/

namespace Sys2Proof.Machine

theorem decodeGroups_of_length {raw : List Byte} {n : Nat} (h : raw.length = 3 * n) :
    decodeGroups raw n = checkGroups 0 raw := by
  rw [decodeGroups, if_neg (not_not.2 h)]

section FirstGroup
variable {g : Nat} {b0 b1 c : Byte} {rest : List Byte}

theorem checkGroups_cons_invalid (h : crc8Word b0 b1 ≠ c) :
    checkGroups g (b0 :: b1 :: c :: rest) =
      .error (.checksumMismatch (BitVec.ofNat 8 g) (crc8Word b0 b1) c) := by
  simp [checkGroups, h]

theorem checkGroups_cons_valid_of_ok {ws : List Word} (h : crc8Word b0 b1 = c) (hrest : checkGroups (g + 1) rest = .ok ws) :
    checkGroups g (b0 :: b1 :: c :: rest) = .ok (joinBytes b0 b1 :: ws) := by
  simp [checkGroups, h, hrest]

theorem checkGroups_cons_valid_of_error {e : ErrorRecord} (h : crc8Word b0 b1 = c)
    (hrest : checkGroups (g + 1) rest = .error e) : checkGroups g (b0 :: b1 :: c :: rest) = .error e := by
  simp [checkGroups, h, hrest]

theorem decodeGroups_one_valid (h : crc8Word b0 b1 = c) : decodeGroups [b0, b1, c] 1 = .ok [joinBytes b0 b1] := by
  rw [decodeGroups_of_length rfl]
  exact checkGroups_cons_valid_of_ok h rfl

theorem decodeGroups_one_invalid (h : crc8Word b0 b1 ≠ c) :
    decodeGroups [b0, b1, c] 1 = .error (.checksumMismatch 0 (crc8Word b0 b1) c) := by
  rw [decodeGroups_of_length rfl]
  exact checkGroups_cons_invalid h

theorem crc8Word_eq_of_decodeGroups_one {ws : List Word} (h : decodeGroups [b0, b1, c] 1 = .ok ws) : crc8Word b0 b1 = c := by
  by_contra hbad
  rw [decodeGroups_one_invalid hbad] at h
  cases h

end FirstGroup

/-- The only error of the group loop is a checksum mismatch (R140). -/
theorem checkGroups_error {g : Nat} {bytes : List Byte} {e : ErrorRecord} (h : checkGroups g bytes = .error e) :
    e.kind = .checksumMismatch := by
  induction g, bytes using checkGroups.induct with
  | case1 g b0 b1 rest ws hrest _ => rw [checkGroups_cons_valid_of_ok rfl hrest] at h; cases h
  | case2 g b0 b1 rest e' hrest ih =>
    rw [checkGroups_cons_valid_of_error rfl hrest] at h
    cases h
    exact ih hrest
  | case3 g b0 b1 c rest hbad => rw [checkGroups_cons_invalid hbad] at h; cases h; rfl
  | case4 g bytes hshort => simp [checkGroups] at h

/-- Group `g` of the response `raw` is valid: its third byte is the checksum of its first two (R140). -/
abbrev GroupValid (raw : Nat → Byte) (g : Nat) : Prop := crc8Word (raw (3 * g)) (raw (3 * g + 1)) = raw (3 * g + 2)

/-- The data word of group `g` of the response `raw` (R145). -/
def groupWord (raw : Nat → Byte) (g : Nat) : Word := joinBytes (raw (3 * g)) (raw (3 * g + 1))

/-- The error record of the response `raw` where `g` is its first invalid group (R143). -/
def groupError (raw : Nat → Byte) (g : Nat) : ErrorRecord :=
  .checksumMismatch (BitVec.ofNat 8 g) (crc8Word (raw (3 * g)) (raw (3 * g + 1))) (raw (3 * g + 2))

/-- The bytes of `n` groups of the response `raw`, from group `g` on. -/
def groupBytes (raw : Nat → Byte) (g n : Nat) : List Byte := (List.range' (3 * g) (3 * n)).map raw

theorem groupBytes_succ (raw : Nat → Byte) (g n : Nat) :
    groupBytes raw g (n + 1) = raw (3 * g) :: raw (3 * g + 1) :: raw (3 * g + 2) :: groupBytes raw (g + 1) n := rfl

theorem checkGroups_of_groupValid {raw : Nat → Byte} {g n : Nat} (hvalid : ∀ i, g ≤ i → i < g + n → GroupValid raw i) :
    checkGroups g (groupBytes raw g n) = .ok ((List.range' g n).map (groupWord raw)) := by
  induction n generalizing g with
  | zero => rfl
  | succ n ih =>
    have hfirst : GroupValid raw g := hvalid g le_rfl (by omega)
    have hrest := ih (g := g + 1) fun i hg hi => hvalid i (by omega) (by omega)
    rw [groupBytes_succ]
    exact checkGroups_cons_valid_of_ok hfirst hrest

/-- The groups behind the first invalid one do not matter (R143). -/
theorem checkGroups_of_firstInvalid {raw : Nat → Byte} {g n h : Nat} (hg : g ≤ h) (hn : h < g + n)
    (hbelow : ∀ i, g ≤ i → i < h → GroupValid raw i) (hbad : ¬ GroupValid raw h) :
    checkGroups g (groupBytes raw g n) = .error (groupError raw h) := by
  induction n generalizing g with
  | zero => omega
  | succ n ih =>
    rw [groupBytes_succ]
    obtain rfl | hlt := Nat.eq_or_lt_of_le hg
    · exact checkGroups_cons_invalid hbad
    · have hfirst : GroupValid raw g := hbelow g le_rfl hlt
      have hrest := ih (g := g + 1) hlt (by omega) fun i hi => hbelow i (by omega)
      exact checkGroups_cons_valid_of_error hfirst hrest

theorem crc8Byte_left_injective (b : Byte) : Function.Injective fun acc => crc8Byte acc b :=
  (crc8Bits_injective 8).comp fun _ _ h => (BitVec.xor_left_inj b).1 h

theorem crc8Byte_right_injective (acc : Byte) : Function.Injective (crc8Byte acc) :=
  (crc8Bits_injective 8).comp fun _ _ h => (BitVec.xor_right_inj acc).1 h

theorem crc8Word_left_injective (b1 : Byte) : Function.Injective fun b0 => crc8Word b0 b1 :=
  (crc8Byte_left_injective b1).comp (crc8Byte_right_injective 0xFF#8)

theorem crc8Word_right_injective (b0 : Byte) : Function.Injective (crc8Word b0) :=
  crc8Byte_right_injective _

/-- A valid group with one byte changed is invalid, since the checksum is injective in each data byte (R107, R144). -/
theorem not_groupValid_of_one_changed {good raw : Nat → Byte} {h p : Nat} (hvalid : GroupValid good h) (hp : p < 3)
    (hchanged : raw (3 * h + p) ≠ good (3 * h + p))
    (hkept : ∀ q < 3, q ≠ p → raw (3 * h + q) = good (3 * h + q)) : ¬ GroupValid raw h := by
  intro hraw
  obtain rfl | rfl | rfl : p = 0 ∨ p = 1 ∨ p = 2 := by omega
  · have h1 := hkept 1 (by decide) (by decide)
    have h2 := hkept 2 (by decide) (by decide)
    rw [GroupValid, h1, h2, ← hvalid] at hraw
    exact hchanged (crc8Word_left_injective _ hraw)
  · have h0 : raw (3 * h) = good (3 * h) := hkept 0 (by decide) (by decide)
    have h2 := hkept 2 (by decide) (by decide)
    rw [GroupValid, h0, h2, ← hvalid] at hraw
    exact hchanged (crc8Word_right_injective _ hraw)
  · have h0 : raw (3 * h) = good (3 * h) := hkept 0 (by decide) (by decide)
    have h1 := hkept 1 (by decide) (by decide)
    rw [GroupValid, h0, h1, hvalid] at hraw
    exact hchanged hraw.symm

end Sys2Proof.Machine
end

section
/-!
The DECODE operation (42_decode.md R141 to R146): what it answers of the groups RAW_IN holds, and the statements O17, O18, O19,
O22 and O23.
-/

namespace Sys2Proof.Machine

section Response
variable {s : State} {n : Byte} {len : Word} {raw : Nat → Byte}

/-- DECODE reads the groups of the response from RAW_IN (R141). -/
theorem memRead_rawIn_eq_groupBytes (hl : len.toNat = 3 * n.toNat)
    (hraw : ∀ j < len.toNat, Buffer.get s.mem.rawIn j = some (raw j)) :
    Buffer.memRead s.mem.rawIn 0 len.toNat = some (groupBytes raw 0 n.toNat) := by
  rw [Buffer.memRead_zero_of_get hraw, List.range_eq_range', hl, groupBytes]

theorem decodeGroups_groupBytes (m : Nat) : decodeGroups (groupBytes raw 0 m) m = checkGroups 0 (groupBytes raw 0 m) := by
  rw [decodeGroups_of_length (by simp [groupBytes])]

theorem exec_decode_of_groupValid (hn : n.toNat ≤ s.caps.maxGroups) (hl : len.toNat = 3 * n.toNat)
    (hraw : ∀ j < len.toNat, Buffer.get s.mem.rawIn j = some (raw j)) (hvalid : ∀ g < n.toNat, GroupValid raw g) :
    exec (.decode n len) s = .next (complete 0b10#2 (.words ((List.range n.toNat).map (groupWord raw))) s) := by
  refine exec_decode_valid hn hl (memRead_rawIn_eq_groupBytes hl hraw) ?_
  rw [decodeGroups_groupBytes, List.range_eq_range']
  exact checkGroups_of_groupValid fun g _ hg => hvalid g (by omega)

theorem exec_decode_of_firstInvalid {g : Nat} (hn : n.toNat ≤ s.caps.maxGroups) (hl : len.toNat = 3 * n.toNat)
    (hraw : ∀ j < len.toNat, Buffer.get s.mem.rawIn j = some (raw j)) (hg : g < n.toNat)
    (hbelow : ∀ h < g, GroupValid raw h) (hbad : ¬ GroupValid raw g) :
    exec (.decode n len) s = .next (raise 0b10#2 (groupError raw g) s) := by
  refine exec_decode_invalid hn hl (memRead_rawIn_eq_groupBytes hl hraw) ?_
  rw [decodeGroups_groupBytes]
  exact checkGroups_of_firstInvalid (Nat.zero_le g) (by omega) (fun h _ hh => hbelow h hh) hbad

/-- A DECODE of the right length over written entries checks its groups: it completes with words or a checksum mismatch. -/
theorem exec_decode_of_written (hn : n.toNat ≤ s.caps.maxGroups) (hl : len.toNat = 3 * n.toNat)
    (hw : ∀ j < len.toNat, Buffer.written s.mem.rawIn j = true) :
    (∃ ws, exec (.decode n len) s = .next (complete 0b10#2 (.words ws) s)) ∨
      ∃ e, e.kind = .checksumMismatch ∧ exec (.decode n len) s = .next (raise 0b10#2 e s) := by
  cases hread : Buffer.memRead s.mem.rawIn 0 len.toNat with
  | none =>
    obtain ⟨j, hj, hnone⟩ := (Buffer.memRead_eq_none _ _ 0).1 hread
    rw [Nat.zero_add] at hnone
    simpa [Buffer.written, hnone] using hw j hj
  | some bytes =>
    obtain ⟨hlength, -⟩ := (Buffer.memRead_eq_some _ _ 0 bytes).1 hread
    cases hd : decodeGroups bytes n.toNat with
    | ok ws => exact .inl ⟨ws, exec_decode_valid hn hl hread hd⟩
    | error e =>
      refine .inr ⟨e, ?_, exec_decode_invalid hn hl hread hd⟩
      rw [decodeGroups_of_length (hlength.trans hl)] at hd
      exact checkGroups_error hd

end Response

theorem outLen_words_toNat {ws : List Word} (h : ws.length < 256) : (Result.outLen (.words ws)).toNat = ws.length := by
  rw [Result.outLen, BitVec.toNat_ofNat, Nat.mod_eq_of_lt (by omega)]

/-- `3 * n` fits the 16 bits of EXPECTED_LEN for every 8-bit group count (R29). -/
theorem errLen_lengthError_expected (n : Byte) (len : Nat) :
    ((Result.errLen (.err (lengthError n.toNat len))).extractLsb' 0 16).toNat = 3 * n.toNat := by
  rw [lengthError, errLen_expected, BitVec.toNat_ofNat, Nat.mod_eq_of_lt (by omega)]

theorem errLen_lengthError_actual (n : Nat) (len : Word) :
    (Result.errLen (.err (lengthError n len.toNat))).extractLsb' 16 16 = len := by
  rw [lengthError, errLen_actual, BitVec.ofNat_toNat, BitVec.setWidth_eq]

theorem errCsum_groupError_group (raw : Nat → Byte) {g : Nat} (h : g < 256) :
    ((Result.errCsum (.err (groupError raw g))).extractLsb' 0 8).toNat = g := by
  rw [groupError, errCsum_group, BitVec.toNat_ofNat, Nat.mod_eq_of_lt (by omega)]

theorem illegalCause_of_checksumMismatch {e : ErrorRecord} (h : e.kind = .checksumMismatch) :
    Result.illegalCause (.err e) = none := by
  cases e with
  | illegalRequest cause => cases h
  | checksumMismatch | malformedResponse => rfl

end Sys2Proof.Machine

namespace Sys2Proof.Proofs

open Sys2Proof.Machine

/-- Settles O17: the words of the groups land in WORDS_OUT from index 0 on, and their number is OUT_LEN. -/
theorem decodeCompletes : Obligations.DecodeCompletes := by
  intro s n len raw hn hl hraw hvalid
  have hcount : ((List.range n.toNat).map (groupWord raw)).length = n.toNat := by simp
  refine ⟨_, exec_decode_of_groupValid hn hl hraw hvalid, rfl, ?outLen, rfl, rfl, rfl, ?words, ?above, rfl,
    complete_completionFrame _ _ _⟩
  case outLen => rw [complete_outLen, outLen_words_toNat (by rw [hcount]; exact n.isLt), hcount]
  case words =>
    exact fun g hg => Buffer.get_memWrite_zero_of_getElem? _ (by simp [hg, groupWord, joinBytes])
  case above => exact fun g hg => Buffer.get_memWrite_zero_of_length_le _ (by rw [hcount]; exact hg)

/-- Settles O18: the length test stands before the read of RAW_IN, and both lengths fit their halves of ERR_LEN. -/
theorem lengthCheckComesFirst : Obligations.LengthCheckComesFirst := by
  intro s n len hn hl
  exact ⟨_, exec_decode_length hn hl, rfl, errLen_lengthError_expected n _, errLen_lengthError_actual _ len, rfl, rfl, rfl,
    rfl, complete_completionFrame _ _ _⟩

/-- Settles O19: the group loop passes the valid groups and stops at the first invalid one, whose record is committed. -/
theorem firstInvalidGroupReported : Obligations.FirstInvalidGroupReported := by
  intro s n len raw g hn hl hraw hg hbelow hbad
  exact ⟨_, exec_decode_of_firstInvalid hn hl hraw hg hbelow hbad, rfl,
    errCsum_groupError_group raw (hg.trans n.isLt), errCsum_expected _ _ _, errCsum_actual _ _ _, errCsum_reserved _ _ _,
    rfl, rfl, rfl, rfl, complete_completionFrame _ _ _⟩

/-- Settles O22: the groups below `h` are the valid ones, and group `h` is invalid, so O19 reports it. -/
theorem corruptedGroupIndexReported : Obligations.CorruptedGroupIndexReported := by
  intro s n len good raw h p hn hl hgood hh hp hbelow hchanged hkept hraw
  have hvalid : ∀ g < h, GroupValid raw g := by
    intro g hg
    rw [GroupValid, hbelow _ (by omega), hbelow _ (by omega), hbelow _ (by omega)]
    exact hgood g (hg.trans hh)
  obtain ⟨t, ht, hstatus, hgroup, -, -, -, -, -, -, hmem, -⟩ := firstInvalidGroupReported s n len raw h hn hl hraw hh hvalid
    (not_groupValid_of_one_changed (hgood h hh) hp hchanged hkept)
  exact ⟨t, ht, by rw [hstatus], by rw [hstatus], hgroup, hmem⟩

/-- Settles O23: the length rows are O18, the rows of one group are the first case of the loop, and a DECODE at the capacity reads
every entry of RAW_IN. -/
theorem decodeCornerCases : Obligations.DecodeCornerCases := by
  intro s
  refine ⟨?empty, ?noGroups, ?notThirds, ?overRaw, ?ones, ?zeros, ?dataChanged, ?full⟩
  case empty =>
    exact ⟨_, exec_decode_of_groupValid (raw := fun _ => 0) (Nat.zero_le _) rfl nofun nofun, rfl, rfl, rfl⟩
  case noGroups =>
    intro len hlen
    have hl : len.toNat ≠ 3 * (0 : Byte).toNat := fun h => hlen (BitVec.eq_of_toNat_eq h)
    obtain ⟨t, ht, hstatus, hexpected, hactual, -⟩ := lengthCheckComesFirst s 0 len (Nat.zero_le _) hl
    exact ⟨t, ht, by rw [hstatus], BitVec.eq_of_toNat_eq hexpected, hactual⟩
  case notThirds =>
    intro n len hn hmod
    obtain ⟨t, ht, hstatus, -⟩ := lengthCheckComesFirst s n len hn (by omega)
    exact ⟨t, ht, by rw [hstatus]⟩
  case overRaw =>
    intro n len hn hover
    rw [Capacity.maxRaw] at hover
    obtain ⟨t, ht, hstatus, -, hactual, -, -, -, hmem, -⟩ := lengthCheckComesFirst s n len hn (by omega)
    exact ⟨t, ht, by rw [hstatus], hactual, hmem⟩
  case ones => exact decodeGroups_one_valid (by decide +kernel)
  case zeros =>
    have hcrc : crc8Word 0x00#8 0x00#8 = 0x81#8 := by decide +kernel
    rw [decodeGroups_one_invalid (by rw [hcrc]; decide), hcrc]
  case dataChanged =>
    intro b0 b1 c b h
    obtain rfl := crc8Word_eq_of_decodeGroups_one h
    exact ⟨fun hb => decodeGroups_one_invalid ((crc8Word_left_injective b1).ne hb),
      fun hb => decodeGroups_one_invalid ((crc8Word_right_injective b0).ne hb)⟩
  case full =>
    intro n len hn hlen
    have hl : len.toNat = 3 * n.toNat := by rw [hlen, hn, Capacity.maxRaw]
    rw [← hlen]
    refine ⟨fun hw => ?_, fun hw => exec_decode_unwritten hn.le hl (Buffer.memRead_zero_eq_none_of_unwritten hw)⟩
    obtain ⟨ws, ht⟩ | ⟨e, he, ht⟩ := exec_decode_of_written hn.le hl hw
    · exact ⟨_, ht, rfl, nofun⟩
    · exact ⟨_, ht, illegalCause_of_checksumMismatch he, by simp [raise, Result.errKind, he]⟩

end Sys2Proof.Proofs
end

section
/-!
The busy hazards (70_reset_and_hazards.md R210, R212): what a write of DESC, a register read and an output read answer while
BUSY = 1, and the statements O33 and O35.
-/

namespace Sys2Proof.Machine

theorem isResultReg_eq_true_iff {n : Nat} : isResultReg n = true ↔ 2 ≤ n ∧ n ≤ 5 := by
  simp [isResultReg]

/-- A register that holds no result is read whether or not an operation is in flight (R212). -/
theorem hostAccess_readReg_of_not_isResultReg {n : Nat} (s : State) (hn : isResultReg n = false) :
    hostAccess (.readReg n) s = .next (returnRead (.reg (regValue s n)) s) := by
  simp [hostAccess, hostReadReg, hn]

section Busy
variable {s : State} (hbusy : s.status.busy = true)
include hbusy

theorem hostAccess_writeDesc_of_busy (v : Reg) : hostAccess (.writeReg 0 v) s = .refused .descWriteWhileBusy := by
  simp [hostAccess, hostWriteReg, hbusy]

theorem hostAccess_readReg_of_busy {n : Nat} (hn : isResultReg n = true) :
    hostAccess (.readReg n) s = .refused .resultReadWhileBusy := by
  simp [hostAccess, hostReadReg, hbusy, hn]

theorem hostAccess_frameRead_of_busy {j : Nat} (hj : j < s.caps.maxFrame) :
    hostAccess (.frameRead j) s = .refused .resultReadWhileBusy := by
  simp [hostAccess, hostFrameRead, Nat.not_le.2 hj, hbusy]

theorem hostAccess_wordsRead_of_busy {g : Nat} (hg : g < s.caps.maxGroups) :
    hostAccess (.wordsRead g) s = .refused .resultReadWhileBusy := by
  simp [hostAccess, hostWordsRead, Nat.not_le.2 hg, hbusy]

end Busy

end Sys2Proof.Machine

namespace Sys2Proof.Proofs

open Sys2Proof.Machine

/-- Settles O33: the busy test stands before the issue, whatever value is written. -/
theorem descWriteWhileBusyRefused : Obligations.DescWriteWhileBusyRefused :=
  fun _ v hbusy => hostAccess_writeDesc_of_busy hbusy v

/-- Settles O35: the busy test refuses the results, and the reads of DESC, STATUS and the input buffers do not ask for it. -/
theorem readsWhileBusy : Obligations.ReadsWhileBusy := by
  intro s hbusy
  refine ⟨?resultRegs, ?frameOut, ?wordsOut, ?desc, ?status, ?argIn, ?rawIn⟩
  case resultRegs => exact fun _ hlow hhigh => hostAccess_readReg_of_busy hbusy (isResultReg_eq_true_iff.2 ⟨hlow, hhigh⟩)
  case frameOut => exact fun _ hj => hostAccess_frameRead_of_busy hbusy hj
  case wordsOut => exact fun _ hg => hostAccess_wordsRead_of_busy hbusy hg
  case desc => exact hostAccess_readReg_of_not_isResultReg s rfl
  case status => exact hostAccess_readReg_of_not_isResultReg s rfl
  case argIn => exact fun _ hi _ hw => hostAccess_argRead_of_get hi hw
  case rawIn => exact fun _ hj _ hb => hostAccess_rawRead_of_get hj hb

end Sys2Proof.Proofs
end

section
/-!
Descriptors (30_encoding.md R71, R72, R78, R79): a descriptor as its four fields, what the decoder answers in each branch of R78,
decoding and encoding as inverses, and the statements O1 to O5, O52 and, of the command table (R76), O53.
-/

namespace Sys2Proof

/-- Two concatenations of the same widths are equal exactly where their parts are. -/
theorem append_eq_append_iff {v w : Nat} {a a' : BitVec v} {b b' : BitVec w} : a ++ b = a' ++ b' ↔ a = a' ∧ b = b' := by
  refine ⟨fun h => ⟨?_, ?_⟩, fun ⟨ha, hb⟩ => ha ▸ hb ▸ rfl⟩
  · simpa [BitVec.extractLsb'_append_eq_left] using congrArg (BitVec.extractLsb' w v) h
  · simpa [BitVec.extractLsb'_append_eq_right] using congrArg (BitVec.extractLsb' 0 w) h

/-- A descriptor from its four fields, `OP : RSV : COUNT : VALUE` (R71). -/
def ofFields (op : BitVec 2) (rsv : BitVec 6) (count : Byte) (value : Word) : Reg :=
  op ++ rsv ++ count ++ value

theorem descriptor_eq_ofFields (op : BitVec 2) (count : Byte) (value : Word) :
    descriptor op count value = ofFields op 0 count value := rfl

theorem ofFields_fields (d : Reg) : ofFields (opField d) (rsvField d) (countField d) (valueField d) = d := by
  have hrsv : opField d ++ rsvField d = d.extractLsb' 24 8 := BitVec.extractLsb'_append_extractLsb'_eq_extractLsb' rfl
  have hcount : d.extractLsb' 24 8 ++ countField d = d.extractLsb' 16 16 :=
    BitVec.extractLsb'_append_extractLsb'_eq_extractLsb' rfl
  have hvalue : d.extractLsb' 16 16 ++ valueField d = d.extractLsb' 0 32 :=
    BitVec.extractLsb'_append_extractLsb'_eq_extractLsb' rfl
  rw [ofFields, hrsv, hcount, hvalue, BitVec.extractLsb'_eq_self]

section Fields
variable {op op' : BitVec 2} {rsv rsv' : BitVec 6} {count count' : Byte} {value value' : Word}

theorem ofFields_inj : ofFields op rsv count value = ofFields op' rsv' count' value' ↔
    op = op' ∧ rsv = rsv' ∧ count = count' ∧ value = value' := by
  constructor
  · intro h
    obtain ⟨h, hvalue⟩ := append_eq_append_iff.1 h
    obtain ⟨h, hcount⟩ := append_eq_append_iff.1 h
    obtain ⟨hop, hrsv⟩ := append_eq_append_iff.1 h
    exact ⟨hop, hrsv, hcount, hvalue⟩
  · rintro ⟨rfl, rfl, rfl, rfl⟩
    rfl

theorem ofFields_and : ofFields op rsv count value &&& ofFields op' rsv' count' value' =
    ofFields (op &&& op') (rsv &&& rsv') (count &&& count') (value &&& value') := by
  have hop := BitVec.and_append (x₁ := op) (y₁ := rsv) (x₂ := op') (y₂ := rsv')
  have hcount := BitVec.and_append (x₁ := op ++ rsv) (y₁ := count) (x₂ := op' ++ rsv') (y₂ := count')
  have hvalue := BitVec.and_append (x₁ := op ++ rsv ++ count) (y₁ := value) (x₂ := op' ++ rsv' ++ count') (y₂ := value')
  rw [hcount, hop] at hvalue
  exact hvalue

end Fields

theorem descriptor_eq_iff {op : BitVec 2} {count : Byte} {value : Word} {d : Reg} :
    descriptor op count value = d ↔ opField d = op ∧ rsvField d = 0 ∧ countField d = count ∧ valueField d = value := by
  conv_lhs => rw [← ofFields_fields d, eq_comm, descriptor_eq_ofFields, ofFields_inj]

section Rows
variable {d : Reg}

/-! The branches of R78 in its order. -/

theorem decodeDesc_of_reservedOp (hop : opField d = 0b11#2) : decodeDesc d = .error .reservedOp := by
  simp [decodeDesc, hop]

theorem decodeDesc_of_reservedBits (hop : opField d ≠ 0b11#2) (hrsv : rsvField d ≠ 0) :
    decodeDesc d = .error .reservedBits := by
  rw [decodeDesc, if_neg hop, if_pos hrsv]

theorem decodeDesc_of_crc8_count (hop : opField d = 0b00#2) (hrsv : rsvField d = 0) (hcount : countField d ≠ 0) :
    decodeDesc d = .error .reservedBits := by
  rw [decodeDesc, if_neg (by simp [hop]), if_neg (not_not.2 hrsv), if_pos hop, if_pos hcount]

theorem decodeDesc_of_crc8 (hop : opField d = 0b00#2) (hrsv : rsvField d = 0) (hcount : countField d = 0) :
    decodeDesc d = .ok (.crc8 (valueField d)) := by
  rw [decodeDesc, if_neg (by simp [hop]), if_neg (not_not.2 hrsv), if_pos hop, if_neg (not_not.2 hcount)]

theorem decodeDesc_of_frame (hop : opField d = 0b01#2) (hrsv : rsvField d = 0) :
    decodeDesc d = .ok (.frame (countField d) (valueField d)) := by
  simp [decodeDesc, hop, hrsv]

theorem decodeDesc_of_decode (hop : opField d = 0b10#2) (hrsv : rsvField d = 0) :
    decodeDesc d = .ok (.decode (countField d) (valueField d)) := by
  simp [decodeDesc, hop, hrsv]

end Rows

/-- The four values of an `OP` field (R71). -/
theorem op_cases (op : BitVec 2) : op = 0b00#2 ∨ op = 0b01#2 ∨ op = 0b10#2 ∨ op = 0b11#2 := by
  decide +revert

/-- Decoding and encoding are inverse to each other (R71, R79). -/
theorem decodeDesc_eq_ok_iff {d : Reg} {i : Instr} : decodeDesc d = .ok i ↔ encodeDesc i = d := by
  constructor
  · intro h
    by_cases hrsv : rsvField d = 0
    · obtain hop | hop | hop | hop := op_cases (opField d)
      · by_cases hcount : countField d = 0
        · rw [decodeDesc_of_crc8 hop hrsv hcount] at h
          cases h
          exact descriptor_eq_iff.2 ⟨hop, hrsv, hcount, rfl⟩
        · rw [decodeDesc_of_crc8_count hop hrsv hcount] at h; cases h
      · rw [decodeDesc_of_frame hop hrsv] at h
        cases h
        exact descriptor_eq_iff.2 ⟨hop, hrsv, rfl, rfl⟩
      · rw [decodeDesc_of_decode hop hrsv] at h
        cases h
        exact descriptor_eq_iff.2 ⟨hop, hrsv, rfl, rfl⟩
      · rw [decodeDesc_of_reservedOp hop] at h; cases h
    · by_cases hop : opField d = 0b11#2
      · rw [decodeDesc_of_reservedOp hop] at h; cases h
      · rw [decodeDesc_of_reservedBits hop hrsv] at h; cases h
  · intro h
    cases i with
    | crc8 w =>
      obtain ⟨hop, hrsv, hcount, rfl⟩ := descriptor_eq_iff.1 h
      exact decodeDesc_of_crc8 hop hrsv hcount
    | frame k cmd =>
      obtain ⟨hop, hrsv, rfl, rfl⟩ := descriptor_eq_iff.1 h
      exact decodeDesc_of_frame hop hrsv
    | decode n len =>
      obtain ⟨hop, hrsv, rfl, rfl⟩ := descriptor_eq_iff.1 h
      exact decodeDesc_of_decode hop hrsv

theorem valueField_toNat (d : Reg) : (valueField d).toNat = d.toNat % 65536 := by
  simp [valueField]

theorem countField_toNat (d : Reg) : (countField d).toNat = d.toNat / 65536 % 256 := by
  simp [countField, Nat.shiftRight_eq_div_pow]

/-- The mask of the `CRC8` row of R79 clears VALUE alone. -/
theorem and_crc8Mask (d : Reg) :
    d &&& 0xFFFF0000#32 = ofFields (opField d) (rsvField d) (countField d) 0 := by
  have hmask : 0xFFFF0000#32 = ofFields (.allOnes 2) (.allOnes 6) (.allOnes 8) 0 := by decide
  conv_lhs => rw [← ofFields_fields d, hmask, ofFields_and]
  simp only [BitVec.and_allOnes, BitVec.ofNat_eq_ofNat, BitVec.and_zero]

/-- The mask of the `FRAME` and `DECODE` rows of R79 clears COUNT and VALUE. -/
theorem and_countedMask (d : Reg) : d &&& 0xFF000000#32 = ofFields (opField d) (rsvField d) 0 0 := by
  have hmask : 0xFF000000#32 = ofFields (.allOnes 2) (.allOnes 6) 0 0 := by decide
  conv_lhs => rw [← ofFields_fields d, hmask, ofFields_and]
  simp only [BitVec.and_allOnes, BitVec.ofNat_eq_ofNat, BitVec.and_zero]

/-- A descriptor in the `or` form of R81. -/
theorem descriptor_eq_or (op : BitVec 2) (count : Byte) (value : Word) :
    descriptor op count value = (op.setWidth 32 <<< 30) ||| (count.setWidth 32 <<< 16) ||| value.setWidth 32 := by
  have h := BitVec.setWidth_append_append_append_eq_shiftLeft_setWidth_or (w'''' := 32) (b := op) (b' := 0#6) (b'' := count)
    (b''' := value)
  simpa [descriptor] using h

end Sys2Proof

namespace Sys2Proof.Proofs

open Sys2Proof.Machine

/-- Settles O1: the fields of an operation's descriptor choose its row, and give its operands back. -/
theorem decodeOfEncode : Obligations.DecodeOfEncode := fun _ => decodeDesc_eq_ok_iff.2 rfl

/-- Settles O2: a descriptor that passes the checks of R78 is its four fields, with RSV and the unused COUNT 0. -/
theorem encodeOfDecode : Obligations.EncodeOfDecode := fun _ _ => decodeDesc_eq_ok_iff.1

/-- Settles O3: each mask of R79 keeps exactly the fields the row fixes. -/
theorem opcodeMapMatchMask : Obligations.OpcodeMapMatchMask := by
  intro d
  have hcrc8 : 0x00000000#32 = ofFields 0b00#2 0 0 0 := by decide
  have hframe : 0x40000000#32 = ofFields 0b01#2 0 0 0 := by decide
  have hdecode : 0x80000000#32 = ofFields 0b10#2 0 0 0 := by decide
  simp only [decodeDesc_eq_ok_iff, encodeDesc, descriptor_eq_iff]
  rw [and_crc8Mask, and_countedMask, hcrc8, hframe, hdecode]
  simp [ofFields_inj]

/-- Settles O4: VALUE and COUNT are the operands of the row the descriptor matches. -/
theorem operandAssembly : Obligations.OperandAssembly := by
  refine fun d => ⟨fun w h => ?crc8, fun k cmd h => ?frame, fun n len h => ?decode⟩
  case crc8 =>
    obtain ⟨-, -, -, rfl⟩ := descriptor_eq_iff.1 (decodeDesc_eq_ok_iff.1 h)
    exact valueField_toNat d
  case frame =>
    obtain ⟨-, -, rfl, rfl⟩ := descriptor_eq_iff.1 (decodeDesc_eq_ok_iff.1 h)
    exact ⟨countField_toNat d, valueField_toNat d⟩
  case decode =>
    obtain ⟨-, -, rfl, rfl⟩ := descriptor_eq_iff.1 (decodeDesc_eq_ok_iff.1 h)
    exact ⟨countField_toNat d, valueField_toNat d⟩

/-- Settles O5 by evaluation of the decoder on the five descriptors. -/
theorem tableWordsDecode : Obligations.TableWordsDecode := by
  exact ⟨rfl, rfl, rfl, rfl, rfl⟩

/-- Settles O52: the statements of R81 are the `or` form of the descriptors. -/
theorem statementsWriteDescriptors : Obligations.StatementsWriteDescriptors := by
  refine ⟨fun w => ?crc8, fun cmd k => ?frame, fun n len => ?decode⟩
  case crc8 => simp [Stmt.accesses, encodeDesc, descriptor_eq_or]
  case frame => simp [Stmt.accesses, encodeDesc, descriptor_eq_or]
  case decode => simp [Stmt.accesses, encodeDesc, descriptor_eq_or]

/-- Settles O53: the rows of R76 in either layout. -/
theorem commandTableConsistent : Obligations.CommandTableConsistent := by
  intro c l
  cases c <;> cases l <;> exact ⟨rfl, rfl⟩

end Sys2Proof.Proofs
end

section
/-!
The checksum as a linear map (40_crc8.md R102, R107; 00_scope.md R2): the bit step over XOR and as one step of the long division
by the generator, how many words reach each value, and the statements O10 to O13.
-/

namespace Sys2Proof.Machine

theorem crc8Bit_eq_xor (acc : Byte) : crc8Bit acc = acc <<< 1 ^^^ if acc.msb then 0x31#8 else 0#8 := by
  rw [crc8Bit]
  split
  · rfl
  · exact (BitVec.xor_zero).symm

/-- The bit step is linear: the leading bits add up, and the constants of two leading ones cancel. -/
theorem crc8Bit_xor (a b : Byte) : crc8Bit (a ^^^ b) = crc8Bit a ^^^ crc8Bit b := by
  have hconstant : (if (a ^^^ b).msb then 0x31#8 else 0#8) =
      (if a.msb then 0x31#8 else 0#8) ^^^ if b.msb then 0x31#8 else 0#8 := by
    rw [BitVec.msb_xor]
    cases a.msb <;> cases b.msb <;> rfl
  rw [crc8Bit_eq_xor, crc8Bit_eq_xor, crc8Bit_eq_xor, BitVec.shiftLeft_xor_distrib, hconstant]
  ac_rfl

theorem crc8Bits_xor (n : Nat) (a b : Byte) : crc8Bits n (a ^^^ b) = crc8Bits n a ^^^ crc8Bits n b := by
  induction n generalizing a b with
  | zero => rfl
  | succ n ih => rw [crc8Bits, crc8Bit_xor, ih]; rfl

theorem crc8Byte_xor (acc acc' b b' : Byte) :
    crc8Byte (acc ^^^ acc') (b ^^^ b') = crc8Byte acc b ^^^ crc8Byte acc' b' := by
  have hswap : acc ^^^ acc' ^^^ (b ^^^ b') = acc ^^^ b ^^^ (acc' ^^^ b') := by ac_rfl
  rw [crc8Byte, hswap, crc8Bits_xor]
  rfl

/-- An odd number of checksums add up to the checksum of the added words, since the seed stays one seed (R107). -/
theorem crc8Word_xor (a0 a1 b0 b1 c0 c1 : Byte) :
    crc8Word (a0 ^^^ b0 ^^^ c0) (a1 ^^^ b1 ^^^ c1) = crc8Word a0 a1 ^^^ crc8Word b0 b1 ^^^ crc8Word c0 c1 := by
  have hseed : (0xFF#8 : Byte) = 0xFF#8 ^^^ 0xFF#8 ^^^ 0xFF#8 := by decide
  conv_lhs => rw [crc8Word, hseed]
  rw [crc8Byte_xor, crc8Byte_xor, crc8Byte_xor, crc8Byte_xor]
  rfl

/-- A subtraction of `0x131` clears the leading term of the shifted accumulator: one bit step. -/
theorem crc8Bit_setWidth (acc : Byte) :
    (crc8Bit acc).setWidth 24 = acc.setWidth 24 <<< 1 ^^^ if acc.msb then 0x131#24 else 0#24 := by
  decide +revert

/-- One step of the long division of `acc · x^(n+1)` plus lower terms is one bit step of the accumulator. -/
theorem polyRem_succ_accumulator {n : Nat} (hn : n < 16) (acc : Byte) {low : BitVec 24}
    (hlow : low.getLsbD (8 + n) = false) :
    polyRem (n + 1) (acc.setWidth 24 <<< (n + 1) ^^^ low) = polyRem n ((crc8Bit acc).setWidth 24 <<< n ^^^ low) := by
  have hlead : (acc.setWidth 24 <<< (n + 1) ^^^ low).getLsbD (8 + n) = acc.msb := by
    rw [BitVec.getLsbD_xor, hlow, Bool.xor_false, BitVec.getLsbD_shiftLeft, show 8 + n - (n + 1) = 7 by omega,
      BitVec.msb_eq_getLsbD_last]
    simp [show 8 + n < 24 by omega]
  rw [polyRem, hlead, crc8Bit_setWidth, BitVec.shiftLeft_xor_distrib, ← BitVec.shiftLeft_add, Nat.add_comm 1 n]
  cases acc.msb with
  | false => simp
  | true =>
    simp only [if_true]
    congr 1
    ac_rfl

/-- `m` steps of the long division are `m` bit steps, where the lower terms lie below them. -/
theorem polyRem_add_accumulator (m n : Nat) (hn : n + m ≤ 16) (acc : Byte) {low : BitVec 24}
    (hlow : ∀ i, 8 + n ≤ i → low.getLsbD i = false) :
    polyRem (n + m) (acc.setWidth 24 <<< (n + m) ^^^ low) = polyRem n ((crc8Bits m acc).setWidth 24 <<< n ^^^ low) := by
  induction m generalizing acc with
  | zero => rfl
  | succ m ih =>
    rw [← Nat.add_assoc, polyRem_succ_accumulator (by omega) acc (hlow _ (by omega)), ih (by omega)]
    rfl

/-- The 24-bit message of two bytes as a polynomial: the first byte times `x^16` plus the second times `x^8`. -/
theorem append_append_zero (a b : Byte) : (a ++ b ++ 0#8 : BitVec 24) = a.setWidth 24 <<< 16 ^^^ b.setWidth 24 <<< 8 := by
  refine BitVec.eq_of_getLsbD_eq fun i hi => ?_
  rw [BitVec.getLsbD_append, BitVec.getLsbD_append]
  interval_cases i <;> simp

/-- The last eight steps of the long division are the byte step of the second byte. -/
theorem polyRem_eight (acc b : Byte) :
    polyRem 8 (acc.setWidth 24 <<< 8 ^^^ b.setWidth 24 <<< 8) = (crc8Byte acc b).setWidth 24 := by
  have h := polyRem_add_accumulator 8 0 (by decide) (acc ^^^ b) (low := 0#24) fun _ _ => BitVec.getLsbD_zero
  simpa [BitVec.setWidth_xor, BitVec.shiftLeft_xor_distrib, polyRem, crc8Byte] using h

theorem crc8Poly_eq_crc8Word (b0 b1 : Byte) : crc8Poly b0 b1 = crc8Word b0 b1 := by
  have hlow : ∀ i, 8 + 8 ≤ i → (b1.setWidth 24 <<< 8).getLsbD i = false := by
    intro i hi
    have hhigh : b1.getLsbD (i - 8) = false := BitVec.getLsbD_of_ge b1 (i - 8) (by omega)
    simp [hhigh]
  have hfirst := polyRem_add_accumulator 8 8 le_rfl (b0 ^^^ 0xFF#8) hlow
  calc crc8Poly b0 b1
      = (polyRem (8 + 8) ((b0 ^^^ 0xFF#8).setWidth 24 <<< (8 + 8) ^^^ b1.setWidth 24 <<< 8)).setWidth 8 := by
        rw [crc8Poly, append_append_zero]
    _ = ((crc8Byte (crc8Bits 8 (b0 ^^^ 0xFF#8)) b1).setWidth 24).setWidth 8 := by rw [hfirst, polyRem_eight]
    _ = crc8Byte (crc8Bits 8 (b0 ^^^ 0xFF#8)) b1 := by simp
    _ = crc8Word b0 b1 := by rw [BitVec.xor_comm]; rfl

/-- Where each row of a table is a bijection, a value stands once in each row. -/
theorem card_filter_of_bijective {α β γ : Type} [Fintype α] [Fintype β] [DecidableEq γ] {f : α → β → γ}
    (hf : ∀ a, Function.Bijective (f a)) (c : γ) :
    ((Finset.univ : Finset (α × β)).filter fun p => f p.1 p.2 = c).card = Fintype.card α := by
  refine Finset.card_bij (fun p _ => p.1) (fun _ _ => Finset.mem_univ _) ?injective ?surjective
  case injective =>
    rintro ⟨a, b⟩ hp ⟨_, b'⟩ hq rfl
    simp only [Finset.mem_filter, Finset.mem_univ, true_and] at hp hq
    rw [(hf a).injective (hp.trans hq.symm)]
  case surjective =>
    intro a _
    obtain ⟨b, hb⟩ := (hf a).surjective c
    exact ⟨(a, b), by simpa using hb, rfl⟩

/-- There are finitely many bytes. -/
theorem byte_bijective_of_injective {f : Byte → Byte} (h : Function.Injective f) : Function.Bijective f := by
  have hfinite : Finite Byte := .of_equiv _ BitVec.equivFin.symm.toEquiv
  exact Finite.injective_iff_bijective.1 h

end Sys2Proof.Machine

namespace Sys2Proof.Proofs

open Sys2Proof.Machine

/-- Settles O10: each step of the long division by `0x131` is one bit step of the accumulator. -/
theorem checksumIsPolynomialRemainder : Obligations.ChecksumIsPolynomialRemainder :=
  fun b0 b1 => (crc8Poly_eq_crc8Word b0 b1).symm

/-- Settles O11: the checksum of `x`, of `y` and of the zero word add up byte by byte. -/
theorem checksumIsAffine : Obligations.ChecksumIsAffine := by
  intro x y
  refine ⟨?_, by decide +kernel⟩
  have h := crc8Word_xor (hiByte x) (loByte x) (hiByte y) (loByte y) 0 0
  simpa [crc8OfWord, hiByte, loByte, BitVec.extractLsb'_xor] using h

/-- Settles O12: the checksum is injective in each byte, and there are as many values as bytes. -/
theorem checksumBijectiveInEachByte : Obligations.ChecksumBijectiveInEachByte :=
  ⟨fun b0 => byte_bijective_of_injective (crc8Word_right_injective b0),
    fun b1 => byte_bijective_of_injective (crc8Word_left_injective b1)⟩

/-- Settles O13: for each first byte exactly one second byte gives the value. -/
theorem checksumReachedBy256Words : Obligations.ChecksumReachedBy256Words := by
  intro c
  have hrow : ∀ x : Fin 256, Function.Bijective fun y : Fin 256 => crc8Word (BitVec.ofFin x) (BitVec.ofFin y) :=
    fun x => (checksumBijectiveInEachByte.1 _).comp BitVec.equivFin.symm.bijective
  exact (card_filter_of_bijective hrow c).trans (Fintype.card_fin 256)

end Sys2Proof.Proofs
end

section
/-!
The result an operation commits (10_state.md R35; 20_memory.md R51, R53): that it is a function of the parameters and the input
buffers and fits the block, when there is none, what an illegal descriptor commits, and the statements O6, O7, O14, O21, O25,
O26, O27, O30, O43 and O48.
-/

namespace Sys2Proof.Machine

/-- The sizes R36 gives the results of a block with these parameters; a count has 8 bits. -/
def Result.Fits (c : Capacity) : Result → Prop
  | .frame f => ∃ k ≤ c.maxArgs, k < 256 ∧ f.length = 2 + 3 * k
  | .words ws => ws.length ≤ c.maxGroups ∧ ws.length < 256
  | _ => True

@[simp] theorem fits_crc (c : Capacity) (b : Byte) : Result.Fits c (.crc b) := trivial
@[simp] theorem fits_err (c : Capacity) (e : ErrorRecord) : Result.Fits c (.err e) := trivial

/-- What a completion reads besides its operation: the parameters and the two input buffers. -/
structure SameInputs (s t : State) : Prop where
  caps : s.caps = t.caps
  argIn : s.mem.argIn = t.mem.argIn
  rawIn : s.mem.rawIn = t.mem.rawIn

/-- Two completions that answer alike: where the entries read are written, both commit one result, which fits the first block;
where they are not, both are refused. -/
def CompleteAlike (written : Prop) (op : BitVec 2) (s t : State) (o p : Host.Outcome State Fault Refusal) : Prop :=
  (written ∧ ∃ r : Result, r.Fits s.caps ∧ o = .next (complete op r s) ∧ p = .next (complete op r t)) ∨
    (¬ written ∧ o = .refused .unwrittenInputRead ∧ p = .refused .unwrittenInputRead)

theorem Buffer.memRead_zero_eq_none_iff {w n : Nat} {b : Buffer w} :
    Buffer.memRead b 0 n = none ↔ ¬ ∀ i < n, Buffer.written b i = true := by
  simp only [Buffer.memRead_eq_none, Nat.zero_add, ← Buffer.written_eq_false_iff, not_forall, Bool.not_eq_true, exists_prop]

theorem Buffer.written_of_memRead_zero {w n : Nat} {b : Buffer w} {vs : List (BitVec w)}
    (h : Buffer.memRead b 0 n = some vs) : ∀ i < n, Buffer.written b i = true := by
  by_contra hunwritten
  rw [Buffer.memRead_zero_eq_none_iff.2 hunwritten] at h
  cases h

/-- The words of a response without error are as many as its groups. -/
theorem decodeGroups_length {raw : List Byte} {n : Nat} {ws : List Word} (hl : raw.length = 3 * n)
    (h : decodeGroups raw n = .ok ws) : ws.length = n := by
  rw [decodeGroups_of_length hl] at h
  exact checkGroups_length n 0 raw ws hl h

theorem exec_alike (i : Instr) {s t : State} (h : SameInputs s t) :
    CompleteAlike (s.InputsWritten i) i.op s t (exec i s) (exec i t) := by
  obtain ⟨hcaps, hargs, hraw⟩ := h
  cases i with
  | crc8 w => exact .inl ⟨trivial, _, fits_crc _ _, rfl, rfl⟩
  | frame k cmd =>
    by_cases hk : k.toNat ≤ s.caps.maxArgs
    case neg =>
      have hover := Nat.lt_of_not_le hk
      exact .inl ⟨fun h => absurd h hk, _, fits_err _ _, exec_frame_over cmd hover, exec_frame_over cmd (hcaps ▸ hover)⟩
    cases hread : Buffer.memRead s.mem.argIn 0 k.toNat with
    | none =>
      exact .inr ⟨fun h => Buffer.memRead_zero_eq_none_iff.1 hread (h hk), exec_frame_unwritten cmd hk hread,
        exec_frame_unwritten cmd (hcaps ▸ hk) (hargs ▸ hread)⟩
    | some args =>
      obtain ⟨hlength, -⟩ := (Buffer.memRead_eq_some _ _ 0 args).1 hread
      have hfits : Result.Fits s.caps (.frame (buildFrame cmd args)) :=
        ⟨k.toNat, hk, k.isLt, by rw [buildFrame_length, hlength]⟩
      exact .inl ⟨fun _ => Buffer.written_of_memRead_zero hread, _, hfits, exec_frame_of_read cmd hk hread,
        exec_frame_of_read cmd (hcaps ▸ hk) (hargs ▸ hread)⟩
  | decode n len =>
    by_cases hn : n.toNat ≤ s.caps.maxGroups
    case neg =>
      have hover := Nat.lt_of_not_le hn
      exact .inl ⟨fun h => absurd h hn, _, fits_err _ _, exec_decode_over len hover, exec_decode_over len (hcaps ▸ hover)⟩
    by_cases hl : len.toNat = 3 * n.toNat
    case neg =>
      exact .inl ⟨fun _ h => absurd h hl, _, fits_err _ _, exec_decode_length hn hl, exec_decode_length (hcaps ▸ hn) hl⟩
    cases hread : Buffer.memRead s.mem.rawIn 0 len.toNat with
    | none =>
      exact .inr ⟨fun h => Buffer.memRead_zero_eq_none_iff.1 hread (h hn hl), exec_decode_unwritten hn hl hread,
        exec_decode_unwritten (hcaps ▸ hn) hl (hraw ▸ hread)⟩
    | some raw =>
      have hwritten : s.InputsWritten (.decode n len) := fun _ _ => Buffer.written_of_memRead_zero hread
      cases hd : decodeGroups raw n.toNat with
      | error e =>
        exact .inl ⟨hwritten, _, fits_err _ e, exec_decode_invalid hn hl hread hd,
          exec_decode_invalid (hcaps ▸ hn) hl (hraw ▸ hread) hd⟩
      | ok ws =>
        obtain ⟨hlength, -⟩ := (Buffer.memRead_eq_some _ _ 0 raw).1 hread
        have hcount : ws.length = n.toNat := decodeGroups_length (hlength.trans hl) hd
        have hfits : Result.Fits s.caps (.words ws) := ⟨hcount ▸ hn, hcount ▸ n.isLt⟩
        exact .inl ⟨hwritten, _, hfits, exec_decode_valid hn hl hread hd,
          exec_decode_valid (hcaps ▸ hn) hl (hraw ▸ hread) hd⟩

section Engine
variable {s : State}

theorem engineComplete_of_error {cause : IllegalCause} (h : decodeDesc s.req = .error cause) :
    engineComplete s = .next (raise (opField s.req) (.illegalRequest cause) s) := by
  simp [engineComplete, fetch, h]

theorem engineComplete_of_ok {i : Instr} (h : decodeDesc s.req = .ok i) : engineComplete s = exec i s := by
  simp [engineComplete, fetch, h]

end Engine

theorem op_of_decodeDesc {d : Reg} {i : Instr} (h : decodeDesc d = .ok i) : i.op = opField d := by
  cases i <;> exact (descriptor_eq_iff.1 (decodeDesc_eq_ok_iff.1 h)).1.symm

/-- The entries that the completion of REQ reads hold values; an illegal descriptor reads none. -/
def State.ReqInputsWritten (s : State) : Prop := ∀ i, decodeDesc s.req = .ok i → s.InputsWritten i

theorem engineComplete_alike {s t : State} (hreq : s.req = t.req) (h : SameInputs s t) :
    CompleteAlike s.ReqInputsWritten (opField s.req) s t (engineComplete s) (engineComplete t) := by
  cases hd : decodeDesc s.req with
  | error cause =>
    refine .inl ⟨fun i hi => ?_, .err (.illegalRequest cause), fits_err _ _, engineComplete_of_error hd, ?_⟩
    · rw [hd] at hi; cases hi
    · rw [hreq]; exact engineComplete_of_error (hreq ▸ hd)
  | ok i =>
    have hwritten : s.ReqInputsWritten ↔ s.InputsWritten i := by simp [State.ReqInputsWritten, hd]
    rw [engineComplete_of_ok hd, engineComplete_of_ok (hreq ▸ hd), ← op_of_decodeDesc hd, hwritten]
    exact exec_alike i h

/-- What the engine's completion can do: where the entries it reads are written it commits one result that fits, under the `OP`
value of REQ, and otherwise it is refused. -/
theorem engineComplete_result (s : State) :
    (s.ReqInputsWritten ∧ ∃ r : Result, r.Fits s.caps ∧ engineComplete s = .next (complete (opField s.req) r s)) ∨
      (¬ s.ReqInputsWritten ∧ engineComplete s = .refused .unwrittenInputRead) := by
  obtain ⟨hw, r, hr, h, -⟩ | ⟨hw, h, -⟩ := engineComplete_alike (t := s) rfl ⟨rfl, rfl, rfl⟩
  · exact .inl ⟨hw, r, hr, h⟩
  · exact .inr ⟨hw, h⟩

/-- A ready engine that answers has committed one result that fits. -/
theorem step_of_engineReady_eq_next {s t : State} (hready : s.EngineReady) (h : step s = .next t) :
    ∃ r : Result, r.Fits s.caps ∧ t = complete (opField s.req) r s.popTurn := by
  rw [step_of_engineReady hready] at h
  obtain ⟨-, r, hr, hnext⟩ | ⟨-, hrefused⟩ := engineComplete_result s.popTurn
  · rw [hnext] at h; cases h; exact ⟨r, hr, rfl⟩
  · rw [hrefused] at h; cases h

/-- A frame is committed only by a legal FRAME, of the argument words ARG_IN holds. -/
theorem exec_frame_eq_next {s t : State} {k : Byte} {cmd : Word} (h : exec (.frame k cmd) s = .next t)
    (hkind : t.status.resultKind = some .frame) :
    ∃ args, Buffer.memRead s.mem.argIn 0 k.toNat = some args ∧ t = complete 0b01#2 (.frame (buildFrame cmd args)) s := by
  by_cases hk : k.toNat ≤ s.caps.maxArgs
  · cases hread : Buffer.memRead s.mem.argIn 0 k.toNat with
    | none => rw [exec_frame_unwritten cmd hk hread] at h; cases h
    | some args => rw [exec_frame_of_read cmd hk hread] at h; cases h; exact ⟨args, rfl, rfl⟩
  · rw [exec_frame_over cmd (Nat.lt_of_not_le hk)] at h
    cases h
    cases hkind

theorem ofNat_mod_descriptor (w : Nat) : BitVec.ofNat 32 (w % 2 ^ 32) = BitVec.ofNat 32 w :=
  BitVec.eq_of_toNat_eq (by simp)

theorem decodeDesc_of_decodeTableWord {w : Nat} {i : Instr} (h : decodeTableWord 32 w = some i) :
    decodeDesc (BitVec.ofNat 32 w) = .ok i := by
  rw [decodeTableWord, if_pos le_rfl, ofNat_mod_descriptor] at h
  cases hd : decodeDesc (BitVec.ofNat 32 w) with
  | error cause => rw [hd] at h; cases h
  | ok j => rw [hd] at h; cases h; rfl

/-- `withFetchWord` leaves the engine ready, and its turn taken the state is the issue alone. -/
theorem withFetchWord_engineReady (s : State) (nbits w : Nat) : (s.withFetchWord nbits w).EngineReady := ⟨rfl, rfl⟩

theorem withFetchWord_popTurn (s : State) (w : Nat) :
    (s.withFetchWord 32 w).popTurn = issue (BitVec.ofNat 32 w) s := by
  rw [State.withFetchWord, ofNat_mod_descriptor]
  rfl

section Step
variable {s : State} (hready : s.EngineReady)
include hready

theorem step_of_error {cause : IllegalCause} (h : decodeDesc s.req = .error cause) :
    ∃ t, step s = .next t ∧ IllegalCommitted s.popTurn t (opField s.req) cause :=
  ⟨_, (step_of_engineReady hready).trans (engineComplete_of_error h), raise_illegalCommitted _ _ _⟩

theorem step_of_ok {i : Instr} (h : decodeDesc s.req = .ok i) : step s = exec i s.popTurn :=
  (step_of_engineReady hready).trans (engineComplete_of_ok h)

end Step

end Sys2Proof.Machine

namespace Sys2Proof.Proofs

open Sys2Proof.Machine

/-- Settles O6: the first three classes are the errors of the decoder, the last two are decoded and over their capacity. -/
theorem illegalDescriptorsComplete : Obligations.IllegalDescriptorsComplete := by
  rintro s hready _ _ _ rfl rfl rfl
  refine ⟨?reservedOp, ?reservedBits, ?crc8Count, ?argsOver, ?groupsOver⟩
  case reservedOp => exact fun hop => step_of_error hready (decodeDesc_of_reservedOp hop)
  case reservedBits => exact fun hop hrsv => step_of_error hready (decodeDesc_of_reservedBits hop hrsv)
  case crc8Count => exact fun hop hrsv hcount => step_of_error hready (decodeDesc_of_crc8_count hop hrsv hcount)
  case argsOver =>
    intro hop hrsv hover
    refine ⟨_, (step_of_ok hready (decodeDesc_of_frame hop hrsv)).trans (exec_frame_over _ hover), ?_⟩
    rw [hop]
    exact raise_illegalCommitted _ _ _
  case groupsOver =>
    intro hop hrsv hover
    refine ⟨_, (step_of_ok hready (decodeDesc_of_decode hop hrsv)).trans (exec_decode_over _ hover), ?_⟩
    rw [hop]
    exact raise_illegalCommitted _ _ _

/-- Settles O7: the capacity check stands before every read of a buffer. -/
theorem illFormedOperationsIllegal : Obligations.IllFormedOperationsIllegal := by
  intro i s hill
  cases i with
  | crc8 w => cases hill
  | frame k cmd =>
    have hover : s.caps.maxArgs < k.toNat := by simpa [Instr.wellFormed] using hill
    exact ⟨_, exec_frame_over cmd hover, .inl ⟨k, cmd, rfl, raise_illegalCommitted _ _ _⟩⟩
  | decode n len =>
    have hover : s.caps.maxGroups < n.toNat := by simpa [Instr.wellFormed] using hill
    exact ⟨_, exec_decode_over len hover, .inr ⟨n, len, rfl, raise_illegalCommitted _ _ _⟩⟩

/-- Settles O14: CRC8 commits the checksum of its word, whatever the state. -/
theorem crc8Completes : Obligations.Crc8Completes :=
  fun w s => ⟨_, exec_crc8 w s, rfl, rfl, rfl, rfl, rfl, rfl, complete_completionFrame _ _ _⟩

/-- Settles O21: RAW_IN holds the word groups of the words FRAME read, which are a valid response. -/
theorem machineRoundTrip : Obligations.MachineRoundTrip := by
  intro s t u k cmd len hexec hkind hk hl hmoved
  obtain ⟨args, hargs, rfl⟩ := exec_frame_eq_next hexec hkind
  obtain ⟨hcount, hentry⟩ := (Buffer.memRead_eq_some _ _ 0 args).1 hargs
  have hraw : Buffer.memRead u.mem.rawIn 0 len.toNat = some (wordGroups args) := by
    refine (Buffer.memRead_eq_some _ _ 0 _).2 ⟨by rw [wordGroups_length, hcount, hl], fun j hj => ?_⟩
    rw [Nat.zero_add, hmoved j hj, complete_mem, commit_frame_frameOut, Buffer.get_memWrite,
      if_pos (by rw [buildFrame_length]; omega), Nat.sub_zero, ← buildFrame_drop_two cmd, List.getElem?_drop]
  have hdecoded : decodeGroups (wordGroups args) k.toNat = .ok args := hcount ▸ decodeGroups_wordGroups args
  refine ⟨_, exec_decode_valid hk hl hraw hdecoded, rfl, ?outLen, fun i hi => ?words⟩
  case outLen => rw [complete_outLen, outLen_words_toNat (hcount ▸ k.isLt), hcount]
  case words =>
    rw [complete_mem, commit_words_wordsOut, Buffer.get_memWrite, if_pos (by omega), Nat.sub_zero, ← hentry i hi, Nat.zero_add]

/-- Settles O25: the entries are read before the result is committed, and nothing else refuses a completion. -/
theorem completesIffInputsWritten : Obligations.CompletesIffInputsWritten := by
  intro i s
  obtain ⟨hwritten, r, -, hnext, -⟩ | ⟨hunwritten, hrefused, -⟩ := exec_alike i (t := s) ⟨rfl, rfl, rfl⟩
  · exact iff_of_true ⟨_, hnext⟩ hwritten
  · refine iff_of_false ?_ hunwritten
    rintro ⟨t, hnext⟩
    rw [hrefused] at hnext
    cases hnext

/-- Settles O26: the two engines commit one result, and STATUS and the result registers are functions of it. -/
theorem completionIsPureFunction : Obligations.CompletionIsPureFunction := by
  intro s s' t hready hready' hreq hcaps hargs hraw hstep
  rw [step_of_engineReady hready] at hstep
  rw [step_of_engineReady hready']
  obtain ⟨-, r, -, hnext, hnext'⟩ | ⟨-, hrefused, -⟩ :=
    engineComplete_alike (s := s.popTurn) (t := s'.popTurn) hreq ⟨hcaps, hargs, hraw⟩
  · rw [hnext] at hstep
    cases hstep
    exact ⟨_, hnext', rfl, rfl, rfl, rfl, rfl⟩
  · rw [hrefused] at hstep
    cases hstep

/-- Settles O27: the engine's turn is the completion of REQ, and the issue puts the descriptor there. -/
theorem stepRunsDecodedOperation : Obligations.StepRunsDecodedOperation := by
  refine ⟨fun s i hready hdecode => step_of_ok hready hdecode, fun s w i hdecode => ?_⟩
  have hreq : decodeDesc (s.withFetchWord 32 w).req = .ok i := by
    rw [← popTurn_req, withFetchWord_popTurn]
    exact decodeDesc_of_decodeTableWord hdecode
  rw [step_of_ok (withFetchWord_engineReady s 32 w) hreq, withFetchWord_popTurn]

/-- Settles O30: a completion clears BUSY, records the `OP` field and a result kind, and has the frame of R35. -/
theorem engineCompletesExactlyWhenBusy : Obligations.EngineCompletesExactlyWhenBusy := by
  refine fun s hagent => ⟨fun hidle => step_of_engine_idle hagent hidle, fun hbusy => ?_⟩
  rw [step_of_engineReady ⟨hagent, hbusy⟩]
  obtain ⟨-, r, -, hnext⟩ | ⟨-, hrefused⟩ := engineComplete_result s.popTurn
  · exact .inl ⟨_, hnext, rfl, rfl, Option.some_ne_none _, complete_completionFrame _ _ _⟩
  · exact .inr hrefused

/-- Settles O43: a completion changes only fields that a reset overwrites or the statement leaves out. -/
theorem resetAbandonsOperation : Obligations.ResetAbandonsOperation := by
  intro s u i req acc pos fresh hexec
  obtain ⟨r, hnext⟩ | hrefused := exec_cases i s
  · rw [hnext] at hexec; cases hexec; rfl
  · rw [hrefused] at hexec; cases hexec

/-- Settles O48: an idle engine changes nothing, and a commit has the frame of R35. -/
theorem engineNeverWritesInputs : Obligations.EngineNeverWritesInputs := by
  intro s t hagent hstep
  cases hbusy : s.status.busy with
  | false =>
    rw [step_of_engine_idle hagent hbusy] at hstep
    cases hstep
    exact ⟨rfl, rfl, rfl, rfl, rfl, rfl, rfl, rfl, rfl⟩
  | true =>
    obtain ⟨r, -, rfl⟩ := step_of_engineReady_eq_next ⟨hagent, hbusy⟩ hstep
    exact complete_completionFrame _ _ _

end Sys2Proof.Proofs
end

section
/-!
The host's ports and registers (10_state.md R23 to R33; 20_memory.md R50 to R54, R61): what each access answers, when each is
refused, the bits a register read returns, and the statements O28, O34, O36 to O41.
-/

namespace Sys2Proof.Machine

section OutOfRange
variable {s : State} {i : Nat}

/-! The index range is judged before anything else (log 10). -/

theorem hostAccess_argWrite_outOfRange (h : s.caps.maxArgs ≤ i) (w : Word) :
    hostAccess (.argWrite i w) s = .refused .indexOutOfRange := by
  simp [hostAccess, hostArgWrite, h]

theorem hostAccess_argRead_outOfRange (h : s.caps.maxArgs ≤ i) : hostAccess (.argRead i) s = .refused .indexOutOfRange := by
  simp [hostAccess, hostArgRead, h]

theorem hostAccess_rawWrite_outOfRange (h : s.caps.maxRaw ≤ i) (b : Byte) :
    hostAccess (.rawWrite i b) s = .refused .indexOutOfRange := by
  simp [hostAccess, hostRawWrite, h]

theorem hostAccess_rawRead_outOfRange (h : s.caps.maxRaw ≤ i) : hostAccess (.rawRead i) s = .refused .indexOutOfRange := by
  simp [hostAccess, hostRawRead, h]

theorem hostAccess_frameRead_outOfRange (h : s.caps.maxFrame ≤ i) :
    hostAccess (.frameRead i) s = .refused .indexOutOfRange := by
  simp [hostAccess, hostFrameRead, h]

theorem hostAccess_wordsRead_outOfRange (h : s.caps.maxGroups ≤ i) :
    hostAccess (.wordsRead i) s = .refused .indexOutOfRange := by
  simp [hostAccess, hostWordsRead, h]

end OutOfRange

section InputWrites
variable {s : State} {i : Nat}

theorem hostAccess_argWrite_of_busy (hi : i < s.caps.maxArgs) (hbusy : s.status.busy = true) (w : Word) :
    hostAccess (.argWrite i w) s = .refused .inputWriteWhileBusy := by
  simp [hostAccess, hostArgWrite, Nat.not_le.2 hi, hbusy]

theorem hostAccess_argWrite_of_idle (hi : i < s.caps.maxArgs) (hidle : s.status.busy = false) (w : Word) :
    hostAccess (.argWrite i w) s = .next { s with mem := { s.mem with argIn := Buffer.set s.mem.argIn i w } } := by
  simp [hostAccess, hostArgWrite, Nat.not_le.2 hi, hidle]

theorem hostAccess_rawWrite_of_busy (hi : i < s.caps.maxRaw) (hbusy : s.status.busy = true) (b : Byte) :
    hostAccess (.rawWrite i b) s = .refused .inputWriteWhileBusy := by
  simp [hostAccess, hostRawWrite, Nat.not_le.2 hi, hbusy]

theorem hostAccess_rawWrite_of_idle (hi : i < s.caps.maxRaw) (hidle : s.status.busy = false) (b : Byte) :
    hostAccess (.rawWrite i b) s = .next { s with mem := { s.mem with rawIn := Buffer.set s.mem.rawIn i b } } := by
  simp [hostAccess, hostRawWrite, Nat.not_le.2 hi, hidle]

end InputWrites

section OutputReads
variable {s : State} {i : Nat}

theorem hostAccess_frameRead_of_get {b : Byte} (hi : i < s.caps.maxFrame) (hidle : s.status.busy = false)
    (hkind : s.status.resultKind = some .frame) (hlen : i < s.outLen.toNat) (hb : Buffer.get s.mem.frameOut i = some b) :
    hostAccess (.frameRead i) s = .next (returnRead (.byte b) s) := by
  simp [hostAccess, hostFrameRead, Nat.not_le.2 hi, hidle, hkind, hlen, hb]

theorem hostAccess_frameRead_undefined (hi : i < s.caps.maxFrame) (hidle : s.status.busy = false)
    (h : ¬ (s.status.resultKind = some .frame ∧ i < s.outLen.toNat)) :
    hostAccess (.frameRead i) s = .refused .outputReadUndefined := by
  rw [hostAccess, hostFrameRead, if_neg (Nat.not_le.2 hi), if_neg (by simp [hidle]), if_neg h]

theorem hostAccess_wordsRead_of_get {w : Word} (hi : i < s.caps.maxGroups) (hidle : s.status.busy = false)
    (hkind : s.status.resultKind = some .words) (hlen : i < s.outLen.toNat) (hw : Buffer.get s.mem.wordsOut i = some w) :
    hostAccess (.wordsRead i) s = .next (returnRead (.word w) s) := by
  simp [hostAccess, hostWordsRead, Nat.not_le.2 hi, hidle, hkind, hlen, hw]

theorem hostAccess_wordsRead_undefined (hi : i < s.caps.maxGroups) (hidle : s.status.busy = false)
    (h : ¬ (s.status.resultKind = some .words ∧ i < s.outLen.toNat)) :
    hostAccess (.wordsRead i) s = .refused .outputReadUndefined := by
  rw [hostAccess, hostWordsRead, if_neg (Nat.not_le.2 hi), if_neg (by simp [hidle]), if_neg h]

end OutputReads

section Registers

theorem hostAccess_writeReg_of_ne_zero {n : Nat} (hn : n ≠ 0) (v : Reg) (s : State) :
    hostAccess (.writeReg n v) s = .next s := by
  simp [hostAccess, hostWriteReg, hn]

theorem hostAccess_readReg_of_idle {s : State} (hidle : s.status.busy = false) (n : Nat) :
    hostAccess (.readReg n) s = .next (returnRead (.reg (regValue s n)) s) := by
  simp [hostAccess, hostReadReg, hidle]

/-- A poll of WAIT is a read of STATUS, which answers busy or not (30_encoding.md R81). -/
theorem hostAccess_wait (s : State) : hostAccess .wait s = .next (returnRead (.reg s.status.word) s) :=
  hostAccess_readReg_of_not_isResultReg s rfl

theorem regValue_reserved (s : State) {n : Nat} (hn : 6 ≤ n) : regValue s n = 0 := by
  obtain ⟨m, rfl⟩ := Nat.exists_eq_add_of_le' hn
  rfl

/-- A mask that holds a field whole keeps it, and one that lacks it clears it (R33). -/
theorem extractLsb'_and_of_allOnes {mask : Reg} {start len : Nat} (v : Reg)
    (h : mask.extractLsb' start len = BitVec.allOnes len) : (v &&& mask).extractLsb' start len = v.extractLsb' start len := by
  rw [BitVec.extractLsb'_and, h, BitVec.and_allOnes]

theorem extractLsb'_and_of_zero {mask : Reg} {start len : Nat} (v : Reg) (h : mask.extractLsb' start len = 0#len) :
    (v &&& mask).extractLsb' start len = 0#len := by
  rw [BitVec.extractLsb'_and, h, BitVec.and_zero]

end Registers

/-! The fields of the STATUS word, each read back by its bits (R25). -/

theorem extractLsb'_eq_of_getLsbD {w start len : Nat} {x : BitVec w} {v : BitVec len}
    (h : ∀ i < len, x.getLsbD (start + i) = v.getLsbD i) : x.extractLsb' start len = v := by
  refine BitVec.eq_of_getLsbD_eq fun i hi => ?_
  rw [BitVec.getLsbD_extractLsb', h i hi, decide_eq_true hi, Bool.true_and]

theorem word_busy (st : Status) : st.word.getLsbD 0 = st.busy := word_getLsbD st 0 (by decide)

theorem word_resultKind (st : Status) : st.word.extractLsb' 1 3 = resultKindCode st.resultKind := by
  refine extractLsb'_eq_of_getLsbD fun i hi => ?_
  rw [word_getLsbD st _ (by omega), if_neg (by omega), if_pos (by omega), Nat.add_sub_cancel_left]

theorem word_errKind (st : Status) : st.word.extractLsb' 4 4 = errKindCode st.errKind := by
  refine extractLsb'_eq_of_getLsbD fun i hi => ?_
  rw [word_getLsbD st _ (by omega), if_neg (by omega), if_neg (by omega), if_pos (by omega), Nat.add_sub_cancel_left]

theorem word_illegalCause (st : Status) : st.word.extractLsb' 8 4 = illegalCauseCode st.illegalCause := by
  refine extractLsb'_eq_of_getLsbD fun i hi => ?_
  rw [word_getLsbD st _ (by omega), if_neg (by omega), if_neg (by omega), if_neg (by omega), if_pos (by omega),
    Nat.add_sub_cancel_left]

theorem word_getLsbD_of_twelve_le (st : Status) {i : Nat} (hlow : 12 ≤ i) (hhigh : i < 32) :
    st.word.getLsbD i = st.lastOp.getLsbD (i - 12) := by
  rw [word_getLsbD st i hhigh, if_neg (by omega), if_neg (by omega), if_neg (by omega), if_neg (by omega)]

theorem word_lastOp (st : Status) : st.word.extractLsb' 12 2 = st.lastOp := by
  refine extractLsb'_eq_of_getLsbD fun i hi => ?_
  rw [word_getLsbD_of_twelve_le st (by omega) (by omega), Nat.add_sub_cancel_left]

theorem word_reserved (st : Status) : st.word.extractLsb' 14 18 = 0#18 := by
  refine extractLsb'_eq_of_getLsbD fun i hi => ?_
  rw [word_getLsbD_of_twelve_le st (by omega) (by omega), BitVec.getLsbD_of_ge _ _ (by omega), BitVec.getLsbD_zero]

/-- A reading access that answers only adds what it read to the host's list (20_memory.md R61). -/
theorem hostAccess_read_eq_next {a : HostAccess} {s t : State} (hread : a.isRead = true) (h : hostAccess a s = .next t) :
    ∃ v, t = returnRead v s := by
  cases a with
  | writeReg | argWrite | rawWrite => cases hread
  | readReg n =>
    simp only [hostAccess, hostReadReg] at h
    split at h
    · cases h
    · cases h; exact ⟨_, rfl⟩
  | argRead i =>
    simp only [hostAccess, hostArgRead] at h
    split at h
    · cases h
    · split at h
      · cases h
      · cases h; exact ⟨_, rfl⟩
  | rawRead j =>
    simp only [hostAccess, hostRawRead] at h
    split at h
    · cases h
    · split at h
      · cases h
      · cases h; exact ⟨_, rfl⟩
  | frameRead j =>
    obtain ⟨-, -, -, -, b, -, rfl⟩ := hostAccess_frameRead_eq_next h
    exact ⟨_, rfl⟩
  | wordsRead g =>
    obtain ⟨-, -, -, -, w, -, rfl⟩ := hostAccess_wordsRead_eq_next h
    exact ⟨_, rfl⟩
  | wait => rw [hostAccess_wait] at h; cases h; exact ⟨_, rfl⟩

end Sys2Proof.Machine

namespace Sys2Proof.Proofs

open Sys2Proof.Machine

/-- Settles O28: the host's turn is its access, and `queueAfter` keeps WAIT alone. -/
theorem hostTurnPerformsAccess : Obligations.HostTurnPerformsAccess :=
  fun _ _ _ hagent hqueue => step_of_host hagent hqueue

/-- Settles O34: the busy test stands before the write, which sets one entry. -/
theorem inputWritesOnlyWhileIdle : Obligations.InputWritesOnlyWhileIdle :=
  ⟨fun _ _ w hi => ⟨fun hbusy => hostAccess_argWrite_of_busy hi hbusy w, fun hidle =>
      ⟨_, hostAccess_argWrite_of_idle hi hidle w, Buffer.get_set_self _ _ _, fun _ hj => Buffer.get_set_of_ne _ _ hj⟩⟩,
    fun _ _ b hi => ⟨fun hbusy => hostAccess_rawWrite_of_busy hi hbusy b, fun hidle =>
      ⟨_, hostAccess_rawWrite_of_idle hi hidle b, Buffer.get_set_self _ _ _, fun _ hj => Buffer.get_set_of_ne _ _ hj⟩⟩⟩

/-- Settles O36: the invariants hold a value in every entry below OUT_LEN of the buffer RESULT_KIND names. -/
theorem outputReadsDefinedExactly : Obligations.OutputReadsDefinedExactly := by
  refine fun s hinv hidle => ⟨fun j hj => ⟨fun hkind hlen => ?frame, ?_⟩, fun g hg => ⟨fun hkind hlen => ?words, ?_⟩⟩
  case frame =>
    obtain ⟨b, hb⟩ := Option.ne_none_iff_exists'.1 (hinv.frameHeld hkind j hlen)
    exact ⟨b, hb, hostAccess_frameRead_of_get hj hidle hkind hlen hb⟩
  case words =>
    obtain ⟨w, hw⟩ := Option.ne_none_iff_exists'.1 (hinv.wordsHeld hkind g hlen)
    exact ⟨w, hw, hostAccess_wordsRead_of_get hg hidle hkind hlen hw⟩
  · exact hostAccess_frameRead_undefined hj hidle
  · exact hostAccess_wordsRead_undefined hg hidle

/-- Settles O37: each port checks its index first. -/
theorem indexOutOfRangeRefused : Obligations.IndexOutOfRangeRefused :=
  fun _ _ => ⟨fun h => ⟨hostAccess_argWrite_outOfRange h, hostAccess_argRead_outOfRange h⟩,
    fun h => ⟨hostAccess_rawWrite_outOfRange h, hostAccess_rawRead_outOfRange h⟩,
    hostAccess_frameRead_outOfRange, hostAccess_wordsRead_outOfRange⟩

/-- Settles O38: only register 0 is written, whatever BUSY is. -/
theorem readOnlyRegisterWritesIgnored : Obligations.ReadOnlyRegisterWritesIgnored :=
  fun s _ v hn => hostAccess_writeReg_of_ne_zero hn v s

/-- Settles O39: each register's mask holds its fields whole and lacks its reserved bits. -/
theorem registerReadsReturnFields : Obligations.RegisterReadsReturnFields := by
  intro s n hidle
  refine ⟨_, hostAccess_readReg_of_idle hidle n, ?desc, ?status, ?crcOut, ?outLen, ?errCsum, ?errLen, ?reserved⟩
  case desc => rintro rfl; rfl
  case status => rintro rfl; exact ⟨rfl, word_reserved _⟩
  case crcOut => rintro rfl; exact ⟨extractLsb'_and_of_allOnes _ rfl, extractLsb'_and_of_zero _ rfl⟩
  case outLen => rintro rfl; exact ⟨extractLsb'_and_of_allOnes _ rfl, extractLsb'_and_of_zero _ rfl⟩
  case errCsum => rintro rfl; exact ⟨extractLsb'_and_of_allOnes _ rfl, extractLsb'_and_of_zero _ rfl⟩
  case errLen => rintro rfl; rfl
  case reserved => exact regValue_reserved s

/-- Settles O40: the word is the concatenation of the fields' codes. -/
theorem statusWordLayout : Obligations.StatusWordLayout := by
  intro st
  refine ⟨word_busy st, ?resultKind, ?errKind, ?illegalCause, word_lastOp st, word_reserved st⟩
  case resultKind => rw [word_resultKind]; obtain _ | (_ | _) := st.resultKind <;> rfl
  case errKind => rw [word_errKind]; obtain _ | (_ | _) := st.errKind <;> rfl
  case illegalCause => rw [word_illegalCause]; obtain _ | (_ | _) := st.illegalCause <;> rfl

/-- Settles O41: a read changes only the host's list of values read. -/
theorem readsHaveNoSideEffect : Obligations.ReadsHaveNoSideEffect :=
  fun _ _ _ hread h => hostAccess_read_eq_next hread h

end Sys2Proof.Proofs
end

section
/-!
The host's turn and what every step keeps (10_state.md R36; 20_memory.md R63; 70_reset_and_hazards.md R216): the host's turn as
one access of a state with the turn spent, the invariants under each shared operation, and the statements O31, O32, O42, O45, O46,
O47 and O50.
-/

namespace Sys2Proof.Machine

/-- The state a host access acts on: the host's turn and its access are spent, a WAIT while BUSY = 1 apart (R63, R81). -/
def State.spendHostTurn (s : State) : State :=
  { s.popTurn with hostQueue := queueAfter s.status.busy s.hostQueue }

@[simp] theorem spendHostTurn_caps (s : State) : s.spendHostTurn.caps = s.caps := rfl
@[simp] theorem spendHostTurn_status (s : State) : s.spendHostTurn.status = s.status := rfl
@[simp] theorem spendHostTurn_outLen (s : State) : s.spendHostTurn.outLen = s.outLen := rfl
@[simp] theorem spendHostTurn_mem (s : State) : s.spendHostTurn.mem = s.mem := rfl

theorem spendHostTurn_of_no_access {s : State} (h : s.hostQueue = []) : s.spendHostTurn = s.popTurn := by
  simp [State.spendHostTurn, State.popTurn, queueAfter, h]

/-- Everything the host's turn can do when it is not refused. -/
theorem step_host_cases {s t : State} (hagent : s.agent = .host) (h : step s = .next t) :
    t = s.spendHostTurn ∨ (∃ v, t = returnRead v s.spendHostTurn) ∨
    (s.status.busy = false ∧ ∃ v rest, s.hostQueue = .writeReg 0 v :: rest ∧ t = issue v s.spendHostTurn) ∨
    (s.status.busy = false ∧ ∃ i w, i < s.caps.maxArgs ∧
      t = { s.spendHostTurn with mem := { s.mem with argIn := Buffer.set s.mem.argIn i w } }) ∨
    (s.status.busy = false ∧ ∃ j b, j < s.caps.maxRaw ∧
      t = { s.spendHostTurn with mem := { s.mem with rawIn := Buffer.set s.mem.rawIn j b } }) := by
  cases hqueue : s.hostQueue with
  | nil =>
    rw [step_of_host_idle hagent hqueue] at h
    cases h
    exact .inl (spendHostTurn_of_no_access hqueue).symm
  | cons a rest =>
    rw [step_of_host hagent hqueue, ← hqueue] at h
    obtain ht | hread | ⟨hidle, v, rfl, ht⟩ | ⟨hidle, i, w, -, hi, ht⟩ | ⟨hidle, j, b, -, hj, ht⟩ := hostAccess_cases h
    · exact .inl ht
    · exact .inr (.inl hread)
    · exact .inr (.inr (.inl ⟨hidle, v, rest, rfl, ht⟩))
    · exact .inr (.inr (.inr (.inl ⟨hidle, i, w, hi, ht⟩)))
    · exact .inr (.inr (.inr (.inr ⟨hidle, j, b, hj, ht⟩)))

/-- While BUSY = 1 the host's turn changes neither STATUS nor DESC. -/
theorem step_host_of_busy {s t : State} (hagent : s.agent = .host) (hbusy : s.status.busy = true) (h : step s = .next t) :
    t.status = s.status ∧ t.desc = s.desc ∧ t.turns = s.turns.tail := by
  obtain rfl | ⟨v, rfl⟩ | ⟨hidle, -⟩ | ⟨hidle, -⟩ | ⟨hidle, -⟩ := step_host_cases hagent h
  · exact ⟨rfl, rfl, rfl⟩
  · exact ⟨rfl, rfl, rfl⟩
  all_goals rw [hbusy] at hidle; cases hidle

theorem engineReady_of_no_turns {s : State} (hturns : s.turns = []) (hbusy : s.status.busy = true) : s.EngineReady :=
  ⟨by rw [State.agent, hturns]; exact if_pos hbusy, hbusy⟩

section Results
variable {c : Capacity} {r : Result}

/-! The implications of R36 among the values a completion commits. -/

theorem Result.kind_eq_error_iff : some r.kind = some ResultKind.error ↔ r.errKind ≠ none := by
  cases r <;> simp [Result.kind, Result.errKind]

theorem Result.illegalCause_ne_none_iff : r.illegalCause ≠ none ↔ r.errKind = some .illegalRequest := by
  obtain _ | _ | _ | (_ | _ | _) := r <;> simp [Result.illegalCause, Result.errKind, ErrorRecord.kind]

theorem Result.kind_of_crcOut_ne_zero (h : r.crcOut ≠ 0) : some r.kind = some ResultKind.crc := by
  cases r with
  | crc b => rfl
  | frame | words | err => exact absurd rfl h

theorem Result.kind_of_outLen_ne_zero (h : r.outLen ≠ 0) :
    some r.kind = some ResultKind.frame ∨ some r.kind = some ResultKind.words := by
  cases r with
  | frame f => exact .inl rfl
  | words ws => exact .inr rfl
  | crc | err => exact absurd rfl h

theorem Result.errKind_of_errCsum_ne_zero (h : r.errCsum ≠ 0) : r.errKind = some .checksumMismatch := by
  obtain _ | _ | _ | (_ | _ | _) := r
  case err.checksumMismatch => rfl
  all_goals exact absurd rfl h

theorem Result.errKind_of_errLen_ne_zero (h : r.errLen ≠ 0) : r.errKind = some .malformedResponse := by
  obtain _ | _ | _ | (_ | _ | _) := r
  case err.malformedResponse => rfl
  all_goals exact absurd rfl h

theorem Result.crcOut_lt : r.crcOut.toNat < 2 ^ 8 := by
  cases r with
  | crc b => simp [Result.crcOut]; omega
  | frame | words | err => exact Nat.two_pow_pos 8

theorem Result.errCsum_lt : r.errCsum.toNat < 2 ^ 24 := by
  obtain _ | _ | _ | (⟨g, e, a⟩ | _ | _) := r
  case err.checksumMismatch =>
    have hreserved := congrArg BitVec.toNat (errCsum_reserved g e a)
    have hlt := (Result.errCsum (.err (.checksumMismatch g e a))).isLt
    rw [BitVec.extractLsb'_toNat, Nat.shiftRight_eq_div_pow] at hreserved
    simp only [BitVec.ofNat_eq_ofNat, BitVec.toNat_ofNat] at hreserved
    omega
  all_goals exact Nat.two_pow_pos 24

theorem Result.outLen_frame_toNat {f : List Byte} (h : Result.Fits c (.frame f)) : (Result.outLen (.frame f)).toNat = f.length := by
  obtain ⟨k, -, hk, hf⟩ := h
  rw [Result.outLen, BitVec.toNat_ofNat, Nat.mod_eq_of_lt (by omega)]

theorem Result.outLen_lt (h : r.Fits c) : r.outLen.toNat < 2 ^ 16 := by
  cases r with
  | frame f =>
    rw [Result.outLen_frame_toNat h]
    obtain ⟨k, -, hk, hf⟩ := h
    omega
  | words ws => rw [outLen_words_toNat h.2]; exact h.2.trans (by decide)
  | crc | err => exact Nat.two_pow_pos 16

/-- `OUT_LEN = 2 + 3 * k` after a FRAME. -/
theorem Result.outLen_of_kind_eq_frame (hr : r.Fits c) (hkind : some r.kind = some ResultKind.frame) :
    ∃ k ≤ c.maxArgs, r.outLen.toNat = 2 + 3 * k := by
  cases r with
  | frame f =>
    have hlen := Result.outLen_frame_toNat hr
    obtain ⟨k, hk, -, hf⟩ := hr
    exact ⟨k, hk, hlen.trans hf⟩
  | crc | words | err => cases hkind

theorem Result.outLen_of_kind_eq_words (hr : r.Fits c) (hkind : some r.kind = some ResultKind.words) :
    r.outLen.toNat ≤ c.maxGroups := by
  cases r with
  | words ws => exact (outLen_words_toNat hr.2).trans_le hr.1
  | crc | frame | err => cases hkind

end Results

theorem commit_inRange {c : Capacity} {m : Memory} {r : Result} (hr : r.Fits c) (h : m.inRange c = true) :
    (m.commit r).inRange c = true := by
  simp only [Memory.inRange, Bool.and_eq_true] at h ⊢
  obtain ⟨⟨⟨hargs, hraw⟩, hframe⟩, hwords⟩ := h
  cases r with
  | crc b => exact ⟨⟨⟨hargs, hraw⟩, hframe⟩, hwords⟩
  | frame f =>
    obtain ⟨k, hk, -, hf⟩ := hr
    exact ⟨⟨⟨hargs, hraw⟩, Buffer.inRange_memWrite f _ 0 (by rw [hf, Capacity.maxFrame]; omega) hframe⟩, hwords⟩
  | words ws => exact ⟨⟨⟨hargs, hraw⟩, hframe⟩, Buffer.inRange_memWrite ws _ 0 (by rw [Nat.zero_add]; exact hr.1) hwords⟩
  | err e => exact ⟨⟨⟨hargs, hraw⟩, hframe⟩, hwords⟩

theorem argIn_set_inRange {c : Capacity} {m : Memory} {i : Nat} (w : Word) (hi : i < c.maxArgs) (h : m.inRange c = true) :
    Memory.inRange c { m with argIn := Buffer.set m.argIn i w } = true := by
  simp only [Memory.inRange, Bool.and_eq_true] at h ⊢
  obtain ⟨⟨⟨hargs, hraw⟩, hframe⟩, hwords⟩ := h
  exact ⟨⟨⟨Buffer.inRange_set _ i w hi hargs, hraw⟩, hframe⟩, hwords⟩

theorem rawIn_set_inRange {c : Capacity} {m : Memory} {j : Nat} (b : Byte) (hj : j < c.maxRaw) (h : m.inRange c = true) :
    Memory.inRange c { m with rawIn := Buffer.set m.rawIn j b } = true := by
  simp only [Memory.inRange, Bool.and_eq_true] at h ⊢
  obtain ⟨⟨⟨hargs, hraw⟩, hframe⟩, hwords⟩ := h
  exact ⟨⟨⟨hargs, Buffer.inRange_set _ j b hj hraw⟩, hframe⟩, hwords⟩

/-- An entry below OUT_LEN of the buffer a commit writes holds what the result has in its place. -/
theorem get_commit_frameOut {m : Memory} {f : List Byte} {j : Nat} (hj : j < (Result.outLen (.frame f)).toNat) :
    ∃ b, f[j]? = some b ∧ Buffer.get (m.commit (.frame f)).frameOut j = some b := by
  have hget := List.getElem?_eq_getElem (hj.trans_le (Nat.mod_le _ _))
  exact ⟨_, hget, Buffer.get_memWrite_zero_of_getElem? _ hget⟩

theorem get_commit_wordsOut {m : Memory} {ws : List Word} {g : Nat} (hg : g < (Result.outLen (.words ws)).toNat) :
    ∃ w, ws[g]? = some w ∧ Buffer.get (m.commit (.words ws)).wordsOut g = some w := by
  have hget := List.getElem?_eq_getElem (hg.trans_le (Nat.mod_le _ _))
  exact ⟨_, hget, Buffer.get_memWrite_zero_of_getElem? _ hget⟩

theorem commit_frameHeld (m : Memory) {r : Result} (hkind : some r.kind = some ResultKind.frame) :
    ∀ j < r.outLen.toNat, Buffer.get (m.commit r).frameOut j ≠ none := by
  intro j hj
  cases r with
  | frame f => obtain ⟨b, -, hb⟩ := get_commit_frameOut hj; rw [hb]; exact Option.some_ne_none b
  | crc | words | err => cases hkind

theorem commit_wordsHeld (m : Memory) {r : Result} (hkind : some r.kind = some ResultKind.words) :
    ∀ g < r.outLen.toNat, Buffer.get (m.commit r).wordsOut g ≠ none := by
  intro g hg
  cases r with
  | words ws => obtain ⟨w, -, hw⟩ := get_commit_wordsOut hg; rw [hw]; exact Option.some_ne_none w
  | crc | frame | err => cases hkind

namespace State.Inv
variable {s : State} (h : s.Inv)
include h

/-- The invariants do not speak of the host's lists. -/
theorem withHost (q : List HostAccess) (ts : List Turn) (rs : List ReadValue) :
    State.Inv { s with hostQueue := q, turns := ts, hostReads := rs } := { h with }

theorem issue (v : Reg) : (issue v s).Inv := { h with reqDesc := fun _ => rfl }

theorem argWrite {i : Nat} (hi : i < s.caps.maxArgs) (w : Word) :
    State.Inv { s with mem := { s.mem with argIn := Buffer.set s.mem.argIn i w } } :=
  { h with memWf := argIn_set_wf _ i w h.memWf, memRange := argIn_set_inRange w hi h.memRange }

theorem rawWrite {j : Nat} (hj : j < s.caps.maxRaw) (b : Byte) :
    State.Inv { s with mem := { s.mem with rawIn := Buffer.set s.mem.rawIn j b } } :=
  { h with memWf := rawIn_set_wf _ j b h.memWf, memRange := rawIn_set_inRange b hj h.memRange }

theorem complete (op : BitVec 2) {r : Result} (hr : r.Fits s.caps) : (complete op r s).Inv where
  errorKind := Result.kind_eq_error_iff
  causeKind := Result.illegalCause_ne_none_iff
  crcKind := Result.kind_of_crcOut_ne_zero
  lenKind := Result.kind_of_outLen_ne_zero
  csumKind := Result.errKind_of_errCsum_ne_zero
  errLenKind := Result.errKind_of_errLen_ne_zero
  frameLen := Result.outLen_of_kind_eq_frame hr
  wordsLen := Result.outLen_of_kind_eq_words hr
  reservedBits := ⟨Result.crcOut_lt, Result.outLen_lt hr, Result.errCsum_lt⟩
  reqDesc := nofun
  frameHeld := commit_frameHeld s.mem
  wordsHeld := commit_wordsHeld s.mem
  memWf := commit_wf _ r h.memWf
  memRange := commit_inRange hr h.memRange
  capsOk := h.capsOk

end State.Inv

theorem stepMarked_of_next {s t : State} (h : step s = .next t) : stepMarked s = t := by
  rw [stepMarked, h]

theorem stepMarked_of_refused {s : State} {r : Refusal} (h : step s = .refused r) : stepMarked s = afterRefusal s := by
  rw [stepMarked, h]

theorem afterRefusal_refused (s : State) : (afterRefusal s).refused = true := by
  rw [afterRefusal]
  cases s.agent <;> rfl

/-- The invariants at reset (R37), for every parameter value R7 allows. -/
theorem resetWith_inv {c : Capacity} (h : c.Ok) : (State.resetWith c).Inv where
  errorKind := iff_of_false nofun (not_not.2 rfl)
  causeKind := iff_of_false (not_not.2 rfl) nofun
  crcKind := absurd rfl
  lenKind := absurd rfl
  csumKind := absurd rfl
  errLenKind := absurd rfl
  frameLen := nofun
  wordsLen := nofun
  reservedBits := ⟨Nat.two_pow_pos 8, Nat.two_pow_pos 16, Nat.two_pow_pos 24⟩
  reqDesc := nofun
  frameHeld := nofun
  wordsHeld := nofun
  memWf := rfl
  memRange := rfl
  capsOk := h

theorem resetStep_inv {s : State} (h : s.caps.Ok) : (resetStep s).Inv := { resetWith_inv h with }

end Sys2Proof.Machine

namespace Sys2Proof.Proofs

open Sys2Proof.Machine

/-- Settles O45: by whose turn it is; a commit meets the invariants because its result fits, whatever was there before. -/
theorem invariantKept : Obligations.InvariantKept := by
  intro s t hinv hstep
  cases hagent : s.agent with
  | reset =>
    rw [step_of_reset hagent] at hstep
    cases hstep
    exact resetStep_inv hinv.capsOk
  | engine =>
    cases hbusy : s.status.busy with
    | false =>
      rw [step_of_engine_idle hagent hbusy] at hstep
      cases hstep
      exact hinv.withHost _ _ _
    | true =>
      obtain ⟨r, hr, rfl⟩ := step_of_engineReady_eq_next ⟨hagent, hbusy⟩ hstep
      exact State.Inv.complete (hinv.withHost _ _ _) _ hr
  | host =>
    have hspent : s.spendHostTurn.Inv := hinv.withHost _ _ _
    obtain rfl | ⟨v, rfl⟩ | ⟨-, v, rest, -, rfl⟩ | ⟨-, i, w, hi, rfl⟩ | ⟨-, j, b, hj, rfl⟩ := step_host_cases hagent hstep
    · exact hspent
    · exact hspent.withHost _ _ _
    · exact hspent.issue v
    · exact hspent.argWrite hi w
    · exact hspent.rawWrite hj b

/-- Settles O46: reset leaves NONE, zeros and empty buffers, so only the parameters' ranges are to be shown. -/
theorem invariantAtReset : Obligations.InvariantAtReset :=
  ⟨fun _ h => resetWith_inv h, resetWith_inv Config.capacity_ok⟩

/-- Settles O47: of what a host turn can do, only the issue touches STATUS. -/
theorem hostNeverWritesResults : Obligations.HostNeverWritesResults := by
  intro s t hagent hstep
  obtain rfl | ⟨v, rfl⟩ | ⟨hidle, v, rest, hqueue, rfl⟩ | ⟨-, i, w, -, rfl⟩ | ⟨-, j, b, -, rfl⟩ := step_host_cases hagent hstep
  · exact ⟨rfl, rfl, rfl, rfl, rfl, rfl, rfl, rfl, .inl rfl⟩
  · exact ⟨rfl, rfl, rfl, rfl, rfl, rfl, rfl, rfl, .inl rfl⟩
  · exact ⟨rfl, rfl, rfl, rfl, rfl, rfl, rfl, rfl, .inr ⟨hidle, rfl, v, rest, hqueue⟩⟩
  · exact ⟨rfl, rfl, rfl, rfl, rfl, rfl, rfl, rfl, .inl rfl⟩
  · exact ⟨rfl, rfl, rfl, rfl, rfl, rfl, rfl, rfl, .inl rfl⟩

/-- Settles O42: the reset turn asks for no condition and keeps the mark and the host. -/
theorem resetInEveryState : Obligations.ResetInEveryState := by
  intro s ts hturns
  have hagent : s.agent = .reset := by rw [State.agent, hturns]
  have hvalues := resetWith_resetValues s.caps
  exact ⟨_, step_of_reset hagent, { hvalues with }, rfl, rfl, by simp [hturns], rfl, rfl⟩

/-- Settles O31: each host turn leaves BUSY set and spends one turn, and after the last one the engine is ready. -/
theorem issuedOperationCompletes : Obligations.IssuedOperationCompletes := by
  intro k
  induction k with
  | zero =>
    rintro s t hbusy hturns ⟨u, hstep, rfl⟩
    obtain ⟨r, -, rfl⟩ := step_of_engineReady_eq_next (engineReady_of_no_turns hturns hbusy) hstep
    exact ⟨rfl, rfl⟩
  | succ k ih =>
    rintro s t hbusy hturns ⟨u, hstep, hrest⟩
    have hagent : s.agent = .host := by rw [State.agent, hturns]; rfl
    obtain ⟨hstatus, hdesc, htail⟩ := step_host_of_busy hagent hbusy hstep
    rw [← hdesc]
    exact ih u t (by rw [hstatus, hbusy]) (by rw [htail, hturns]; rfl) hrest

/-- Settles O32: the engine moves first and clears BUSY, so the host's poll is the next step and spends WAIT. -/
theorem waitEnds : Obligations.WaitEnds := by
  intro s t rest hqueue hturns hbusy hstep
  obtain ⟨r, -, rfl⟩ := step_of_engineReady_eq_next (engineReady_of_no_turns hturns hbusy) hstep
  have hagent : (complete (opField s.req) r s.popTurn).agent = .host := by simp [State.agent, hturns]
  refine ⟨_, (step_of_host hagent hqueue).trans (hostAccess_wait _), rfl, rfl, word_busy _⟩

/-- The mark is none of the block's state that a step writes. -/
theorem step_keeps_refused {s t : State} (h : step s = .next t) : t.refused = s.refused := by
  cases hagent : s.agent with
  | host =>
    obtain ⟨-, -, -, -, -, -, hmark, -⟩ := hostNeverWritesResults s t hagent h
    exact hmark
  | engine => exact (engineNeverWritesInputs s t hagent h).refused
  | reset => rw [step_of_reset hagent] at h; cases h; rfl

/-- Settles O50: the mark is set by `afterRefusal` alone, and no ordinary step writes it. -/
theorem refusedMarkNeverCleared : Obligations.RefusedMarkNeverCleared := by
  intro s
  refine ⟨fun r h => ?refusedStep, fun hmark => ?kept, fun t h => ⟨stepMarked_of_next h, step_keeps_refused h⟩⟩
  case refusedStep => rw [stepMarked_of_refused h, afterRefusal_refused]
  case kept =>
    cases h : step s with
    | next t => rw [stepMarked_of_next h, step_keeps_refused h, hmark]
    | fault r => cases r
    | refused r => rw [stepMarked_of_refused h, afterRefusal_refused]

end Sys2Proof.Proofs
end

section
/-!
What the host can see (10_state.md R31; 20_memory.md R52; 70_reset_and_hazards.md R213): two blocks equal to the host stay so
under each shared operation and answer each access alike, and the statement O51.
-/

namespace Sys2Proof.Machine

/-- Two blocks that commit one result have the same readable output entries: those the commit has just written. -/
theorem get_commit_frameOut_congr (m m' : Memory) {r : Result} (hkind : some r.kind = some ResultKind.frame) :
    ∀ j < r.outLen.toNat, Buffer.get (m.commit r).frameOut j = Buffer.get (m'.commit r).frameOut j := by
  intro j hj
  cases r with
  | frame f =>
    obtain ⟨b, hf, hb⟩ := get_commit_frameOut (m := m) hj
    obtain ⟨b', hf', hb'⟩ := get_commit_frameOut (m := m') hj
    rw [hb, hb', ← hf, hf']
  | crc | words | err => cases hkind

theorem get_commit_wordsOut_congr (m m' : Memory) {r : Result} (hkind : some r.kind = some ResultKind.words) :
    ∀ g < r.outLen.toNat, Buffer.get (m.commit r).wordsOut g = Buffer.get (m'.commit r).wordsOut g := by
  intro g hg
  cases r with
  | words ws =>
    obtain ⟨w, hws, hw⟩ := get_commit_wordsOut (m := m) hg
    obtain ⟨w', hws', hw'⟩ := get_commit_wordsOut (m := m') hg
    rw [hw, hw', ← hws, hws']
  | crc | frame | err => cases hkind

namespace HostEq
variable {s t : State} (h : HostEq s t)
include h

theorem sameInputs : SameInputs s t := ⟨h.caps, h.argIn, h.rawIn⟩

theorem agent : s.agent = t.agent := by
  rw [State.agent, State.agent, h.turns, h.status]

theorem regValue (n : Nat) : regValue s n = regValue t n := by
  match n with
  | 0 => exact h.desc
  | 1 => exact congrArg Status.word h.status
  | 2 => exact congrArg (· &&& 0x000000FF#32) h.crcOut
  | 3 => exact congrArg (· &&& 0x0000FFFF#32) h.outLen
  | 4 => exact congrArg (· &&& 0x00FFFFFF#32) h.errCsum
  | 5 => exact h.errLen
  | n + 6 => rfl

theorem withQueue (q : List HostAccess) : HostEq { s with hostQueue := q } { t with hostQueue := q } :=
  { h with hostQueue := rfl }

theorem popTurn : HostEq s.popTurn t.popTurn := { h with turns := congrArg List.tail h.turns }

theorem returnRead (v : ReadValue) : HostEq (returnRead v s) (returnRead v t) :=
  { h with hostReads := congrArg (v :: ·) h.hostReads }

/-- The issue makes every output entry unreadable, and REQ the same in both. -/
theorem issue (v : Reg) : HostEq (issue v s) (issue v t) :=
  { h with
    desc := rfl
    status := congrArg (fun st : Status => { st with busy := true }) h.status
    req := fun _ => rfl
    frameOut := nofun
    wordsOut := nofun }

theorem argWrite (i : Nat) (w : Word) :
    HostEq { s with mem := { s.mem with argIn := Buffer.set s.mem.argIn i w } }
      { t with mem := { t.mem with argIn := Buffer.set t.mem.argIn i w } } :=
  { h with argIn := congrArg (Buffer.set · i w) h.argIn }

theorem rawWrite (j : Nat) (b : Byte) :
    HostEq { s with mem := { s.mem with rawIn := Buffer.set s.mem.rawIn j b } }
      { t with mem := { t.mem with rawIn := Buffer.set t.mem.rawIn j b } } :=
  { h with rawIn := congrArg (Buffer.set · j b) h.rawIn }

theorem complete (op : BitVec 2) (r : Result) : HostEq (complete op r s) (complete op r t) :=
  { h with
    status := rfl
    crcOut := rfl
    outLen := rfl
    errCsum := rfl
    errLen := rfl
    argIn := by simpa using h.argIn
    rawIn := by simpa using h.rawIn
    req := nofun
    frameOut := fun _ hkind => get_commit_frameOut_congr _ _ hkind
    wordsOut := fun _ hkind => get_commit_wordsOut_congr _ _ hkind }

theorem resetStep : HostEq (resetStep s) (resetStep t) :=
  { h with
    desc := rfl
    status := rfl
    crcOut := rfl
    outLen := rfl
    errCsum := rfl
    errLen := rfl
    argIn := rfl
    rawIn := rfl
    req := nofun
    frameOut := nofun
    wordsOut := nofun }

/-- The two blocks answer each access alike. -/
theorem hostAccess (a : HostAccess) : OutcomeEq (hostAccess a s) (hostAccess a t) := by
  cases a with
  | writeReg n v =>
    simp only [Machine.hostAccess, hostWriteReg, ← h.status]
    split
    · split
      · rfl
      · exact h.issue v
    · exact h
  | readReg n =>
    simp only [Machine.hostAccess, hostReadReg, ← h.status, ← h.regValue]
    split
    · rfl
    · exact h.returnRead _
  | argWrite i w =>
    obtain hi | hi := Nat.lt_or_ge i s.caps.maxArgs
    · cases hbusy : s.status.busy with
      | true =>
        rw [hostAccess_argWrite_of_busy hi hbusy, hostAccess_argWrite_of_busy (h.caps ▸ hi) (h.status ▸ hbusy)]
        rfl
      | false =>
        rw [hostAccess_argWrite_of_idle hi hbusy, hostAccess_argWrite_of_idle (h.caps ▸ hi) (h.status ▸ hbusy)]
        exact h.argWrite i w
    · rw [hostAccess_argWrite_outOfRange hi, hostAccess_argWrite_outOfRange (h.caps ▸ hi)]
      rfl
  | rawWrite j b =>
    obtain hj | hj := Nat.lt_or_ge j s.caps.maxRaw
    · cases hbusy : s.status.busy with
      | true =>
        rw [hostAccess_rawWrite_of_busy hj hbusy, hostAccess_rawWrite_of_busy (h.caps ▸ hj) (h.status ▸ hbusy)]
        rfl
      | false =>
        rw [hostAccess_rawWrite_of_idle hj hbusy, hostAccess_rawWrite_of_idle (h.caps ▸ hj) (h.status ▸ hbusy)]
        exact h.rawWrite j b
    · rw [hostAccess_rawWrite_outOfRange hj, hostAccess_rawWrite_outOfRange (h.caps ▸ hj)]
      rfl
  | argRead i =>
    simp only [Machine.hostAccess, hostArgRead, ← h.caps, ← h.argIn]
    split
    · rfl
    · split
      · rfl
      · exact h.returnRead _
  | rawRead j =>
    simp only [Machine.hostAccess, hostRawRead, ← h.caps, ← h.rawIn]
    split
    · rfl
    · split
      · rfl
      · exact h.returnRead _
  | frameRead j =>
    simp only [Machine.hostAccess, hostFrameRead, ← h.caps, ← h.status, ← h.outLen]
    split
    · rfl
    · split
      · rfl
      next hidle =>
        split
        next hdefined =>
          rw [← h.frameOut (by simpa using hidle) hdefined.1 j hdefined.2]
          split
          · rfl
          · exact h.returnRead _
        · rfl
  | wordsRead g =>
    simp only [Machine.hostAccess, hostWordsRead, ← h.caps, ← h.status, ← h.outLen]
    split
    · rfl
    · split
      · rfl
      next hidle =>
        split
        next hdefined =>
          rw [← h.wordsOut (by simpa using hidle) hdefined.1 g hdefined.2]
          split
          · rfl
          · exact h.returnRead _
        · rfl
  | wait => rw [hostAccess_wait, hostAccess_wait, ← h.status]; exact h.returnRead _

theorem engineComplete (hbusy : s.status.busy = true) : OutcomeEq (engineComplete s) (engineComplete t) := by
  obtain ⟨-, r, -, hs, ht⟩ | ⟨-, hs, ht⟩ := engineComplete_alike (h.req hbusy) h.sameInputs
  · rw [hs, ht]; exact h.complete _ r
  · rw [hs, ht]; rfl

end HostEq

end Sys2Proof.Machine

namespace Sys2Proof.Proofs

open Sys2Proof.Machine

/-- Settles O51: both blocks move by the same agent, each of whose moves keeps them equal to the host. -/
theorem hostSeesNoInternalState : Obligations.HostSeesNoInternalState := by
  intro s t h
  cases hagent : s.agent with
  | reset =>
    rw [step_of_reset hagent, step_of_reset (h.agent ▸ hagent)]
    exact h.popTurn.resetStep
  | engine =>
    cases hbusy : s.status.busy with
    | false =>
      rw [step_of_engine_idle hagent hbusy, step_of_engine_idle (h.agent ▸ hagent) (h.status ▸ hbusy)]
      exact h.popTurn
    | true =>
      rw [step_of_engineReady ⟨hagent, hbusy⟩, step_of_engineReady ⟨h.agent ▸ hagent, h.status ▸ hbusy⟩]
      exact h.popTurn.engineComplete hbusy
  | host =>
    cases hqueue : s.hostQueue with
    | nil =>
      rw [step_of_host_idle hagent hqueue, step_of_host_idle (h.agent ▸ hagent) (h.hostQueue ▸ hqueue)]
      exact h.popTurn
    | cons a rest =>
      rw [step_of_host hagent hqueue, step_of_host (h.agent ▸ hagent) (h.hostQueue ▸ hqueue), ← h.status]
      exact (h.popTurn.withQueue _).hostAccess a

end Sys2Proof.Proofs
end

section
/-!
The refusals (20_memory.md R52 to R54; 60_exceptions.md R176; 70_reset_and_hazards.md R210 to R212): for each access the reasons it
can be refused for, with their conditions, and the statement O49.
-/

namespace Sys2Proof.Machine

section Refused
variable {s : State} {r : Refusal}

theorem hostAccess_writeReg_eq_refused {n : Nat} {v : Reg} (h : hostAccess (.writeReg n v) s = .refused r) :
    r = .descWriteWhileBusy ∧ s.status.busy = true ∧ n = 0 := by
  simp only [hostAccess, hostWriteReg] at h
  split at h
  next hn =>
    split at h
    next hbusy => cases h; exact ⟨rfl, hbusy, hn⟩
    · cases h
  · cases h

theorem hostAccess_readReg_eq_refused {n : Nat} (h : hostAccess (.readReg n) s = .refused r) :
    r = .resultReadWhileBusy ∧ s.status.busy = true ∧ 2 ≤ n ∧ n ≤ 5 := by
  simp only [hostAccess, hostReadReg] at h
  split at h
  next hbusy =>
    cases h
    obtain ⟨hbusy, hn⟩ := Bool.and_eq_true_iff.1 hbusy
    exact ⟨rfl, hbusy, isResultReg_eq_true_iff.1 hn⟩
  · cases h

theorem hostAccess_argWrite_eq_refused {i : Nat} {w : Word} (h : hostAccess (.argWrite i w) s = .refused r) :
    (r = .indexOutOfRange ∧ s.caps.maxArgs ≤ i) ∨ (r = .inputWriteWhileBusy ∧ s.status.busy = true) := by
  simp only [hostAccess, hostArgWrite] at h
  split at h
  next hi => cases h; exact .inl ⟨rfl, hi⟩
  · split at h
    next hbusy => cases h; exact .inr ⟨rfl, hbusy⟩
    · cases h

theorem hostAccess_rawWrite_eq_refused {j : Nat} {b : Byte} (h : hostAccess (.rawWrite j b) s = .refused r) :
    (r = .indexOutOfRange ∧ s.caps.maxRaw ≤ j) ∨ (r = .inputWriteWhileBusy ∧ s.status.busy = true) := by
  simp only [hostAccess, hostRawWrite] at h
  split at h
  next hj => cases h; exact .inl ⟨rfl, hj⟩
  · split at h
    next hbusy => cases h; exact .inr ⟨rfl, hbusy⟩
    · cases h

theorem hostAccess_argRead_eq_refused {i : Nat} (h : hostAccess (.argRead i) s = .refused r) :
    (r = .indexOutOfRange ∧ s.caps.maxArgs ≤ i) ∨ (r = .unwrittenInputRead ∧ Buffer.written s.mem.argIn i = false) := by
  simp only [hostAccess, hostArgRead] at h
  split at h
  next hi => cases h; exact .inl ⟨rfl, hi⟩
  · split at h
    next hnone => cases h; exact .inr ⟨rfl, Buffer.written_eq_false_iff.2 hnone⟩
    · cases h

theorem hostAccess_rawRead_eq_refused {j : Nat} (h : hostAccess (.rawRead j) s = .refused r) :
    (r = .indexOutOfRange ∧ s.caps.maxRaw ≤ j) ∨ (r = .unwrittenInputRead ∧ Buffer.written s.mem.rawIn j = false) := by
  simp only [hostAccess, hostRawRead] at h
  split at h
  next hj => cases h; exact .inl ⟨rfl, hj⟩
  · split at h
    next hnone => cases h; exact .inr ⟨rfl, Buffer.written_eq_false_iff.2 hnone⟩
    · cases h

/-- A read of FRAME_OUT is refused by the index, by BUSY, or where it is not defined or finds no value (log 17). -/
theorem hostAccess_frameRead_eq_refused {j : Nat} (h : hostAccess (.frameRead j) s = .refused r) :
    (r = .indexOutOfRange ∧ s.caps.maxFrame ≤ j) ∨ (r = .resultReadWhileBusy ∧ s.status.busy = true) ∨
    (r = .outputReadUndefined ∧ s.status.busy = false ∧
      (s.Inv → ¬ (s.status.resultKind = some .frame ∧ j < s.outLen.toNat))) := by
  simp only [hostAccess, hostFrameRead] at h
  split at h
  next hj => cases h; exact .inl ⟨rfl, hj⟩
  · split at h
    next hbusy => cases h; exact .inr (.inl ⟨rfl, hbusy⟩)
    next hidle =>
      have hidle : s.status.busy = false := by simpa using hidle
      split at h
      · split at h
        next hnone => cases h; exact .inr (.inr ⟨rfl, hidle, fun hinv hd => hinv.frameHeld hd.1 j hd.2 hnone⟩)
        · cases h
      next hundefined => cases h; exact .inr (.inr ⟨rfl, hidle, fun _ => hundefined⟩)

theorem hostAccess_wordsRead_eq_refused {g : Nat} (h : hostAccess (.wordsRead g) s = .refused r) :
    (r = .indexOutOfRange ∧ s.caps.maxGroups ≤ g) ∨ (r = .resultReadWhileBusy ∧ s.status.busy = true) ∨
    (r = .outputReadUndefined ∧ s.status.busy = false ∧
      (s.Inv → ¬ (s.status.resultKind = some .words ∧ g < s.outLen.toNat))) := by
  simp only [hostAccess, hostWordsRead] at h
  split at h
  next hg => cases h; exact .inl ⟨rfl, hg⟩
  · split at h
    next hbusy => cases h; exact .inr (.inl ⟨rfl, hbusy⟩)
    next hidle =>
      have hidle : s.status.busy = false := by simpa using hidle
      split at h
      · split at h
        next hnone => cases h; exact .inr (.inr ⟨rfl, hidle, fun hinv hd => hinv.wordsHeld hd.1 g hd.2 hnone⟩)
        · cases h
      next hundefined => cases h; exact .inr (.inr ⟨rfl, hidle, fun _ => hundefined⟩)

end Refused

/-- A step is refused on the engine's turn, for an entry REQ reads, or on the host's, by the access the turn performs. -/
theorem step_eq_refused {s : State} {r : Refusal} (h : step s = .refused r) :
    (r = .unwrittenInputRead ∧ s.EngineReady ∧ ∃ i, decodeDesc s.req = .ok i ∧ ¬ s.InputsWritten i) ∨
    (s.agent = .host ∧ ∃ a rest, s.hostQueue = a :: rest ∧ hostAccess a s.spendHostTurn = .refused r) := by
  cases hagent : s.agent with
  | reset => rw [step_of_reset hagent] at h; cases h
  | engine =>
    cases hbusy : s.status.busy with
    | false => rw [step_of_engine_idle hagent hbusy] at h; cases h
    | true =>
      rw [step_of_engineReady ⟨hagent, hbusy⟩] at h
      obtain ⟨-, result, -, hnext⟩ | ⟨hunwritten, hrefused⟩ := engineComplete_result s.popTurn
      · rw [hnext] at h; cases h
      · rw [hrefused] at h
        cases h
        obtain ⟨i, hi⟩ := not_forall.1 hunwritten
        exact .inl ⟨rfl, ⟨hagent, hbusy⟩, i, Classical.not_imp.1 hi⟩
  | host =>
    cases hqueue : s.hostQueue with
    | nil => rw [step_of_host_idle hagent hqueue] at h; cases h
    | cons a rest => rw [step_of_host hagent hqueue, ← hqueue] at h; exact .inr ⟨rfl, a, rest, rfl, h⟩

end Sys2Proof.Machine

namespace Sys2Proof.Proofs

open Sys2Proof.Machine

/-- Settles O49: each access names its reasons, and the state the host's turn acts on agrees with `s` in what they speak of. -/
theorem refusalsAreTheClosedList : Obligations.RefusalsAreTheClosedList := by
  intro s r hstep
  obtain hengine | ⟨hagent, a, rest, hqueue, h⟩ := step_eq_refused hstep
  · exact .inl hengine
  refine .inr ⟨hagent, a, rest, hqueue, ?_⟩
  cases a with
  | writeReg n v =>
    obtain ⟨rfl, hbusy, rfl⟩ := hostAccess_writeReg_eq_refused h
    simpa using hbusy
  | readReg n =>
    obtain ⟨rfl, hcondition⟩ := hostAccess_readReg_eq_refused h
    simpa using hcondition
  | argWrite i w =>
    obtain ⟨rfl, hi⟩ | ⟨rfl, hbusy⟩ := hostAccess_argWrite_eq_refused h
    · simpa using hi
    · simpa using hbusy
  | rawWrite j b =>
    obtain ⟨rfl, hj⟩ | ⟨rfl, hbusy⟩ := hostAccess_rawWrite_eq_refused h
    · simpa using hj
    · simpa using hbusy
  | argRead i =>
    obtain ⟨rfl, hi⟩ | ⟨rfl, hunwritten⟩ := hostAccess_argRead_eq_refused h
    · simpa using hi
    · simpa using hunwritten
  | rawRead j =>
    obtain ⟨rfl, hj⟩ | ⟨rfl, hunwritten⟩ := hostAccess_rawRead_eq_refused h
    · simpa using hj
    · simpa using hunwritten
  | frameRead j =>
    obtain ⟨rfl, hj⟩ | ⟨rfl, hbusy⟩ | ⟨rfl, hidle, hundefined⟩ := hostAccess_frameRead_eq_refused h
    · simpa using hj
    · simpa using hbusy
    · have hundefined := fun hinv : s.Inv => hundefined (hinv.withHost _ _ _)
      simpa using And.intro hidle hundefined
  | wordsRead g =>
    obtain ⟨rfl, hg⟩ | ⟨rfl, hbusy⟩ | ⟨rfl, hidle, hundefined⟩ := hostAccess_wordsRead_eq_refused h
    · simpa using hg
    · simpa using hbusy
    · have hundefined := fun hinv : s.Inv => hundefined (hinv.withHost _ _ _)
      simpa using And.intro hidle hundefined
  | wait => rw [hostAccess_wait] at h; cases h

end Sys2Proof.Proofs
end
